-- ==== Sys2Proof/Word.lean ====
section
/-! DEFINITION. The words of ATIC: every value is an unsigned bit pattern of a stated width (R13). -/

namespace Sys2Proof

/-- One byte of an operation-store image (R104). -/
abbrev Byte := BitVec 8

/-- A 1-bit field, flag or control bit (Table 10-F). -/
abbrev Bit := BitVec 1

/-- An operation word: `OPWORD_BITS` = 16 (R140). -/
abbrev OpWord := BitVec 16

/-- An operation-store address: `PC_BITS` = 6 (R33). -/
abbrev Addr := BitVec 6

/-- A field id operand: `FIELD_ID_BITS` = 6 (R41). -/
abbrev FieldId := BitVec 6

/-- A strap index operand, 6 bits of the word (R142). -/
abbrev StrapId := BitVec 6

/-- The value a field access carries: `BUS_BITS` = 32 (Table 00-A). -/
abbrev BusWord := BitVec 32

/-- A conversion result: `RESULT_BITS` = 12 (Table 00-A). -/
abbrev Sample := BitVec 12

end Sys2Proof
end

