-- ==== Sys2Proof/Config.lean ====
section
/-! DEFINITION. What the spec leaves open for good: constants without a body, so that nothing can be proved of their
values and a claim holds whatever they are. -/

namespace Sys2Proof.Config

/-- The values of `any(S)` (R14): the `k`-th draw of a run, before it is cut to the set it is drawn from. State counts
the draws, so each evaluation is a fresh one. Free value, log 7; used by gated reads (log 8), gated writes (log 9) and
the three undefined points (log 10, 11, 12). -/
opaque anyValue : Nat → BitVec 32

/-- The open parameter `bank_of` (R12, D35): the bank a channel ordinal belongs to. The block never reads it; it only
bounds how the integrator sets `P_BANK`. Free value, log 16. -/
opaque bankOf : BitVec 5 → Bit

end Sys2Proof.Config
end

