-- ==== Sys2Proof/Syntax.lean ====
section
/-! DEFINITION. The sixteen operations (Table 30-B), one constructor per row of the opcode table. -/

namespace Sys2Proof

/-- An operation with its operands as the word holds them (R142). Whether a field id or a strap index is assigned is
no question of syntax: it is checked when the operation executes (R145). -/
inductive Instr where
  /-- `NOP` (R240) -/
  | nop
  /-- `HALT` (R241) -/
  | halt
  /-- `IRET` (R243) -/
  | iret
  /-- `EI` (R242) -/
  | ei
  /-- `WRI f, k` (R180) -/
  | wri (f : FieldId) (k : BitVec 6)
  /-- `WRP f, p` (R181) -/
  | wrp (f : FieldId) (p : StrapId)
  /-- `SET f` (R182) -/
  | set (f : FieldId)
  /-- `CLR f` (R183) -/
  | clr (f : FieldId)
  /-- `INC f` (R184) -/
  | inc (f : FieldId)
  /-- `MOV fd, fs` (R202), destination first -/
  | mov (fd fs : FieldId)
  /-- `WAIT f, k` (R220) -/
  | wait (f : FieldId) (k : BitVec 6)
  /-- `JMP t` (R221) -/
  | jmp (t : Addr)
  /-- `BTS i, t` (R222); the bit index fills the 6-bit word field `a` and must be 0 to 15 -/
  | bts (i : BitVec 6) (t : Addr)
  /-- `BTC i, t` (R223); the bit index as for `BTS` -/
  | btc (i : BitVec 6) (t : Addr)
  /-- `SPIN p` (R224) -/
  | spin (p : StrapId)
  /-- `LDT f` (R201) -/
  | ldt (f : FieldId)
deriving DecidableEq, Repr

end Sys2Proof
end

