-- ==== Sys2Proof/WellFormed.lean ====
section
/-! DEFINITION. Which terms of `Instr` are operations of the spec. -/

namespace Sys2Proof

/-- The one restriction that the operand types do not make: the bit index of `BTS` and `BTC` must be 0 to 15 (R142).
Unassigned field ids and strap indices are well-formed: they decode, and fault when they execute (R145). -/
def Instr.wellFormed : Instr → Bool
  | .nop | .halt | .iret | .ei => true
  | .wri _ _ | .wrp _ _ | .set _ | .clr _ | .inc _ | .mov _ _ | .wait _ _ => true
  | .jmp _ | .spin _ | .ldt _ => true
  | .bts i _ | .btc i _ => decide (i.toNat ≤ 15)

end Sys2Proof
end

