-- ==== Sys2Proof/Decode.lean ====
section
/-! DEFINITION. Decoding (R141, R145, R150), total on any bytes and rejecting by name, and the encoder (Table 30-B). -/

namespace Sys2Proof

/-- Why a word is no operation (R150). -/
inductive Illegal where
  /-- `op` is 13, 14 or 15 -/
  | reservedOpcode
  /-- `op` = 0 with `a != 0` -/
  | systemOperandA
  /-- `op` = 0 with `b` not in 1 to 4 -/
  | systemFunction
  /-- `SET`, `CLR`, `INC` or `LDT` with `b != 0` -/
  | operandB
  /-- `JMP` or `SPIN` with `a != 0` -/
  | operandA
  /-- `BTS` or `BTC` with `a > 15` -/
  | bitIndex
  /-- fewer bytes than one operation word -/
  | truncated
deriving DecidableEq, Repr

/-- What decoding answers: an operation, or ILLEGAL with the reason (R145). -/
inductive Decoded where
  | op (i : Instr)
  | illegal (why : Illegal)
deriving DecidableEq, Repr

/-- `word[15:12]`, the major opcode (R141). -/
def opField (w : OpWord) : BitVec 4 := w.extractLsb' 12 4

/-- `word[11:6]`, the first operand (R141). -/
def aField (w : OpWord) : BitVec 6 := w.extractLsb' 6 6

/-- `word[5:0]`, the second operand (R141). -/
def bField (w : OpWord) : BitVec 6 := w.extractLsb' 0 6

/-- The word `{op, a, b}` (R141). -/
def packWord (op : BitVec 4) (a b : BitVec 6) : OpWord := op ++ a ++ b

/-- Format S: `op` = 0 (R142, R145). -/
def decodeSystem (a b : BitVec 6) : Decoded :=
  if a = 0 then
    if b = 1 then .op .nop
    else if b = 2 then .op .halt
    else if b = 3 then .op .iret
    else if b = 4 then .op .ei
    else .illegal .systemFunction
  else .illegal .systemOperandA

/-- Format F: `b` must be 0 (R142). -/
def decodeF (mk : FieldId → Instr) (a b : BitVec 6) : Decoded :=
  if b = 0 then .op (mk a) else .illegal .operandB

/-- Formats J and P: `a` must be 0 (R142). -/
def decodeJP (mk : BitVec 6 → Instr) (a b : BitVec 6) : Decoded :=
  if a = 0 then .op (mk b) else .illegal .operandA

/-- Format TB: the bit index must be 0 to 15 (R142). -/
def decodeTB (mk : BitVec 6 → Addr → Instr) (a b : BitVec 6) : Decoded :=
  if a.toNat ≤ 15 then .op (mk a b) else .illegal .bitIndex

/-- `Decode` of one operation word (R145, Table 30-B). -/
def decodeWord (w : OpWord) : Decoded :=
  let a := aField w
  let b := bField w
  match (opField w).toNat with
  | 0 => decodeSystem a b
  | 1 => .op (.wri a b)
  | 2 => .op (.wrp a b)
  | 3 => decodeF .set a b
  | 4 => decodeF .clr a b
  | 5 => decodeF .inc a b
  | 6 => .op (.mov a b)
  | 7 => .op (.wait a b)
  | 8 => decodeJP .jmp a b
  | 9 => decodeTB .bts a b
  | 10 => decodeTB .btc a b
  | 11 => decodeJP .spin a b
  | 12 => decodeF .ldt a b
  | _ => .illegal .reservedOpcode

/-- The low byte of a word, stored first (R104). -/
def loByte (w : OpWord) : Byte := w.extractLsb' 0 8

/-- The high byte of a word, stored second (R104). -/
def hiByte (w : OpWord) : Byte := w.extractLsb' 8 8

/-- The two bytes of a word in the order of an image file: least significant first (R104). -/
def wordBytes (w : OpWord) : List Byte := [loByte w, hiByte w]

/-- The word that two bytes of an image hold (R104). -/
def wordOfBytes (lo hi : Byte) : OpWord := hi ++ lo

/-- The decoder over bytes: the operation that starts at the first byte. An operation is exactly one word (R140). -/
def decode : List Byte → Decoded
  | lo :: hi :: _ => decodeWord (wordOfBytes lo hi)
  | _ => .illegal .truncated

/-- `Encode`: the word of an operation (R141, Table 30-B). -/
def encodeWord : Instr → OpWord
  | .nop => packWord 0 0 1
  | .halt => packWord 0 0 2
  | .iret => packWord 0 0 3
  | .ei => packWord 0 0 4
  | .wri f k => packWord 1 f k
  | .wrp f p => packWord 2 f p
  | .set f => packWord 3 f 0
  | .clr f => packWord 4 f 0
  | .inc f => packWord 5 f 0
  | .mov fd fs => packWord 6 fd fs
  | .wait f k => packWord 7 f k
  | .jmp t => packWord 8 0 t
  | .bts i t => packWord 9 i t
  | .btc i t => packWord 10 i t
  | .spin p => packWord 11 0 p
  | .ldt f => packWord 12 f 0

/-- The bytes of a well-formed operation as an image stores them (R104). -/
def encode (i : Instr) : List Byte := wordBytes (encodeWord i)

/-- The instruction the decoder reads from the bits `w` of an opcode-table row of `nbits` bits, laid out as the store
holds them; none where it is illegal. -/
def decodeTableWord (nbits w : Nat) : Option Instr :=
  match decode (wordBytes (BitVec.ofNat 16 (w % 2 ^ nbits))) with
  | .op i => some i
  | .illegal _ => none

end Sys2Proof
end

