-- ==== Sys2Proof/Machine/Memory.lean ====
section
/-! DEFINITION. The operation store as data (R100, R101): a list of cells in one canonical form. -/

namespace Sys2Proof.Machine

/-- The operation store as the byte stream of R104: word `a` is at bytes `2a` (low) and `2a + 1` (high). Addresses
rise strictly, lie below 128, and no listed byte is what an unlisted address reads as (log 1). -/
abbrev Memory := List Host.Cell

/-- The store's size in bytes: 64 words of 16 bits (R100, R104). -/
def storeBytes : Nat := 128

/-- What an unlisted address reads as: an address without a word holds 0x0000 (R160, R400). -/
def unlistedByte : Byte := 0

/-- One byte of the store. -/
def Memory.read : Memory → Nat → Byte
  | [], _ => unlistedByte
  | (k, b) :: rest, a => if k = a then b else Memory.read rest a

/-- Put one byte at an address, keeping the canonical form. No operation and no agent writes the store (R101); this is
the load from outside that `State.withFetchWord` stands for (log 2). -/
def Memory.write : Memory → Nat → Byte → Memory
  | [], a, b => if b = unlistedByte then [] else [(a, b)]
  | (k, c) :: rest, a, b =>
    if a < k then (if b = unlistedByte then (k, c) :: rest else (a, b) :: (k, c) :: rest)
    else if a = k then (if b = unlistedByte then rest else (a, b) :: rest)
    else (k, c) :: Memory.write rest a b

/-- The canonical form from address `lo` on. -/
def Memory.wfFrom (lo : Nat) : Memory → Bool
  | [] => true
  | (k, b) :: rest => decide (lo ≤ k) && decide (k < storeBytes) && decide (b ≠ unlistedByte) && Memory.wfFrom (k + 1) rest

/-- The canonical form: addresses strictly rising and inside the store, no entry equal to an unlisted byte. -/
def Memory.wf (m : Memory) : Bool := Memory.wfFrom 0 m

/-- The word at an operation-store address (R101: a fetch reads the whole word). -/
def Memory.bytesAt (m : Memory) (a : Addr) : List Byte := [m.read (2 * a.toNat), m.read (2 * a.toNat + 1)]

/-- Put one word at an operation-store address, low byte first (R104). -/
def Memory.writeWord (m : Memory) (a : Addr) (w : OpWord) : Memory :=
  (m.write (2 * a.toNat) (loByte w)).write (2 * a.toNat + 1) (hiByte w)

/-- The canonical list of a run of bytes that starts at address `a`. -/
def Memory.ofBytes (a : Nat) : List Byte → Memory
  | [] => []
  | b :: bs => if b = unlistedByte then Memory.ofBytes (a + 1) bs else (a, b) :: Memory.ofBytes (a + 1) bs

/-- The store that holds a list of words from address 0 on; words past the 64th have no place in it. -/
def Memory.ofWords (ws : List OpWord) : Memory := Memory.ofBytes 0 ((ws.take 64).flatMap wordBytes)

end Sys2Proof.Machine
end

