-- ==== Sys2Proof/Machine/Image.lean ====
section
/-! DEFINITION. The standard image (Table 47-A): the default contents of the operation store (R95, R101, R400). -/

namespace Sys2Proof.Machine

/-- Addresses 0x00 to 0x1F: the bring-up routine (R410 to R413), then unused words. -/
def bringUpWords : List OpWord :=
  [0x7000, 0x3040, 0x7081, 0x10C0, 0x3100, 0x3140, 0x0004, 0x2200] ++
  [0x2241, 0x2282, 0x12C6, 0x3300, 0x3340, 0x3380, 0x33C0, 0x4600] ++
  [0x2684, 0x26C5, 0x2706, 0x1741, 0x1780, 0x27C3, 0x3600, 0x7641] ++
  [0x1807, 0x2A87, 0x3840, 0x0002, 0x0000, 0x0000, 0x0000, 0x0000]

/-- Addresses 0x20 to 0x37: the capture routine (R420), then unused words. -/
def captureWords : List OpWord :=
  [0xCA40, 0xA024, 0x6EE4, 0x802A, 0xA071, 0x6F25, 0x6F66, 0x6FA7] ++
  [0x6FE8, 0x48C0, 0x4880, 0x4E00, 0x4E40, 0x3E80, 0xB008, 0x4E80] ++
  [0x3E40, 0x0003, 0x0000, 0x0000, 0x0000, 0x0000, 0x0000, 0x0000]

/-- Addresses 0x38 to 0x3F: the tick routine (R430), then unused words. -/
def tickWords : List OpWord :=
  [0x5DC0, 0x0003, 0x0000, 0x0000, 0x0000, 0x0000, 0x0000, 0x0000]

/-- The 64 words of Table 47-A; an address the table does not list holds 0x0000 (R400). -/
def standardWords : List OpWord := bringUpWords ++ captureWords ++ tickWords

/-- The standard image as the store holds it. -/
def standardImage : Memory := Memory.ofWords standardWords

end Sys2Proof.Machine
end

