-- ==== Sys2Proof/Machine/State.lean ====
section
/-! DEFINITION. The state of ATIC (R30), the agents' steps that a run is made of (R131), the outcomes that are no next
state, and reset (R93, R94, R520). -/

namespace Sys2Proof.Machine

/-- The clock group `CLK` (R42 to R47). -/
structure Clk where
  /-- `CLK.SWS`: the active system clock: 0 internal-RC, 1 external, 2 PLL (R42) -/
  sws : BitVec 2
  /-- `CLK.HSION`: internal-oscillator enable (R43) -/
  hsion : Bit
  /-- `CLK.HSIRDY`: the oscillator's own ready flag (R44) -/
  hsirdy : Bit
  /-- `CLK.PPRE2`: bus prescaler code (R45); read by the phase alone (R440) -/
  ppre2 : BitVec 3
  /-- `CLK.TIMEN`: the timer's bus-clock gate (R46) -/
  timen : Bit
  /-- `CLK.ADCEN`: the converter's bus-clock gate (R47) -/
  adcen : Bit
deriving DecidableEq, Repr

/-- The timer group `TIM` and the timer's hidden state (R48 to R56, R88, R89). -/
structure Tim where
  /-- `TIM.PSC`: prescaler preload (R48) -/
  psc : BitVec 16
  /-- `TIM.ARR`: period preload (R49) -/
  arr : BitVec 16
  /-- `TIM.CCR1`: compare preload (R50) -/
  ccr1 : BitVec 16
  /-- `TIM.OC1M`: output mode, 0 frozen or 6 PWM mode 1 (R51) -/
  oc1m : BitVec 3
  /-- `TIM.OC1PE`: compare preload enable (R52) -/
  oc1pe : Bit
  /-- `TIM.ARPE`: period preload enable (R53) -/
  arpe : Bit
  /-- `TIM.CEN`: counter enable (R55) -/
  cen : Bit
  /-- `TIM.CNT`: the counter (R56) -/
  cnt : BitVec 16
  /-- `PSC_A`: active prescaler (R88) -/
  pscA : BitVec 16
  /-- `ARR_A`: active period (R88) -/
  arrA : BitVec 16
  /-- `CCR_A`: active compare value (R88) -/
  ccrA : BitVec 16
  /-- `PSCCNT`: the prescaler's own counter (R89) -/
  pscCnt : BitVec 16
deriving DecidableEq, Repr

/-- The converter group `ADC` and the converter's hidden state (R58 to R75, R90, R91). -/
structure Adc where
  /-- `ADC.ADON`: enable (R58) -/
  adon : Bit
  /-- `ADC.ADONS`: enabled and ready (R59) -/
  adons : Bit
  /-- `ADC.BANK`: 0 bank A, 1 bank B (R60) -/
  bank : Bit
  /-- `ADC.CONT`: 0 single-shot, 1 continuous (R61) -/
  cont : Bit
  /-- `ADC.EXTSEL`: trigger source, 7 = timer channel-1 event (R62) -/
  extsel : BitVec 4
  /-- `ADC.EXTEN`: trigger edge: 0 off, 1 rising, 2 falling, 3 both (R63) -/
  exten : BitVec 2
  /-- `ADC.L`: sequence length, 0 = one conversion (R64) -/
  seqLen : BitVec 5
  /-- `ADC.SQ1`: the selected channel ordinal (R65) -/
  sq1 : BitVec 5
  /-- `SMP[0..31]`: sample-time codes, reached through `ADC.SMPX` (R66, R90) -/
  smp : Vector (BitVec 3) 32
  /-- `ADC.EOC`: regular-group completion flag (R68) -/
  eoc : Bit
  /-- `ADC.JEOC`: injected-group completion flag (R69) -/
  jeoc : Bit
  /-- `ADC.DR`: regular data register (R70) -/
  dr : BitVec 16
  /-- `ADC.JDR1` (R71) -/
  jdr1 : BitVec 16
  /-- `ADC.JDR2` (R71) -/
  jdr2 : BitVec 16
  /-- `ADC.JDR3` (R71) -/
  jdr3 : BitVec 16
  /-- `ADC.JDR4` (R71) -/
  jdr4 : BitVec 16
  /-- `ADC.IRQEN`: interrupt enable (R73) -/
  irqen : Bit
  /-- `ADC.ARMED`: accepts trigger edges (R74) -/
  armed : Bit
  /-- `ADC.BUSY`: a regular conversion is in progress (R75) -/
  busy : Bit
  /-- `CONVCH`: channel latched at the conversion's start (R91) -/
  convCh : BitVec 5
  /-- `CONVBANK`: bank latched at the conversion's start (R91) -/
  convBank : Bit
deriving DecidableEq, Repr

/-- The sequencer group `SYS` (R32, R34 to R38). -/
structure Sys where
  /-- `SYS.IE`: global interrupt enable (R34) -/
  ie : Bit
  /-- `SYS.INH`: 1 in handler context (R35) -/
  inh : Bit
  /-- `SYS.TICKP`: tick interrupt pending (R37) -/
  tickp : Bit
  /-- `SYS.EPC`: the pc saved by the last interrupt entry (R36) -/
  epc : Addr
  /-- `SYS.FCAUSE`: the fault cause, 0 when no fault has occurred (R38, R461) -/
  fcause : BitVec 3
  /-- `T`, readable as `SYS.T`: the sequencer's latch (R32) -/
  latch : BitVec 16
deriving DecidableEq, Repr

/-- The shared cells `SH` (R79 to R84). -/
structure Sh where
  /-- `SH.MS`: millisecond tick counter (R79) -/
  ms : BitVec 32
  /-- `SH.BG`: "background/idle" toggle (R80) -/
  bg : Bit
  /-- `SH.TC`: "timer-cycle" toggle (R81) -/
  tc : Bit
  /-- `SH.SIP`: "sampling in progress" toggle (R82) -/
  sip : Bit
  /-- `SH.REGRES`: regular-result slot (R83) -/
  regres : BitVec 16
  /-- `SH.INJRES1` (R84) -/
  injres1 : BitVec 16
  /-- `SH.INJRES2` (R84) -/
  injres2 : BitVec 16
  /-- `SH.INJRES3` (R84) -/
  injres3 : BitVec 16
  /-- `SH.INJRES4` (R84) -/
  injres4 : BitVec 16
deriving DecidableEq, Repr

/-- The sources the system clock can run from (R42); the code 3 never occurs. -/
inductive ClkSource where
  | internalRC
  | external
  | pll
deriving DecidableEq, Repr

/-- The code of a clock source in `CLK.SWS` (R42, D6). -/
def ClkSource.code : ClkSource → BitVec 2
  | .internalRC => 0
  | .external => 1
  | .pll => 2

/-- The nine shared cells, as the application names them (R130). -/
inductive ShCell where
  | ms | bg | tc | sip | regres | injres1 | injres2 | injres3 | injres4
deriving DecidableEq, Repr

/-- The two shared cells that the application may write (R130). -/
inductive AppCell where
  | bg
  | tc
deriving DecidableEq, Repr

/-- One atomic step of one agent (R3, R131 Table 20-H), with the values the environment presents with it (R133). -/
inductive AgentStep where
  /-- `SeqStep` (R480) -/
  | seq
  /-- `EnvSysclkInternal` (R271) -/
  | envSysclkInternal
  /-- `EnvOscReady` (R272) -/
  | envOscReady
  /-- `EnvTick` (R474) -/
  | envTick
  /-- `EnvInjected(a, b, c, d)` (R378) -/
  | envInjected (a b c d : Sample)
  /-- `AppRead(f)` (R130) -/
  | appRead (cell : ShCell)
  /-- `AppWrite(f, v)` (R130) -/
  | appWrite (cell : AppCell) (v : Bit)
  /-- `TimerTick` (R300) -/
  | timerTick
  /-- `AdcReady` (R360) -/
  | adcReady
  /-- `AdcComplete(v)` (R372) -/
  | adcComplete (v : Sample)
  /-- the input `rst` is asserted and released; the clock hardware's status is drawn afresh (R520, R523) -/
  | rst (src : ClkSource) (osc : Bit)
deriving DecidableEq, Repr

/-- The state of ATIC: R30's state, the run's parameters of R95, and two fields of the model's own. -/
structure State where
  /-- `pc` (R33) -/
  pc : Addr
  /-- the `CLK` fields -/
  clk : Clk
  /-- the `TIM` fields and the timer's hidden state -/
  tim : Tim
  /-- the `ADC` fields and the converter's hidden state -/
  adc : Adc
  /-- the `SYS` fields and the latch `T` -/
  sys : Sys
  /-- the `SH` fields -/
  sh : Sh
  /-- the operation store `IMEM` (R101); a parameter of the run (R95), which nothing writes -/
  imem : Memory
  /-- the straps `PARAM[0..8]` (R10); a parameter of the run (R95), which nothing writes -/
  param : Vector (BitVec 16) 9
  /-- the model's own: the agent steps still to come, oldest first (log 6) -/
  agenda : List AgentStep
  /-- the model's own: how many values of `any(S)` have been drawn (log 7) -/
  draws : Nat
deriving DecidableEq, Repr

/-- Why `step` stops. No operation's meaning answers with a fault of the model: the spec's faults are next states that
record a cause in `SYS.FCAUSE` (R462). -/
inductive Fault where
  /-- Raised by `step` alone, when the sequencer is `FAULTED`, so has no step until reset (R462), and the agenda names
  no other agent: no agent of this run has a step. Safe: the model stops where nothing happens (log 14). -/
  | sequencerStopped
deriving DecidableEq, Repr

/-- Why `step` refuses an instruction. -/
inductive Refusal where
  /-- An instruction without a meaning, by its mnemonic. No arm answers with it: all sixteen operations have their
  meaning. Safe. -/
  | notModelled (mnemonic : String)
deriving DecidableEq, Repr

/-- `VEC_RESET` (Table 00-A). -/
def vecReset : Addr := 0x00

/-- The launch state: every piece of state at its reset value (R93, R520), for each choice of the two unspecified
fields `CLK.SWS` and `CLK.HSIRDY` (R94), of the store's contents and of the straps (R522). -/
def State.launch (src : ClkSource) (osc : Bit) (imem : Memory) (param : Vector (BitVec 16) 9) : State where
  pc := vecReset
  clk := ⟨src.code, 1, osc, 0, 0, 0⟩
  tim := ⟨0, 0, 0, 0, 0, 0, 0, 0, 0, 0, 0, 0⟩
  adc := ⟨0, 0, 0, 0, 0, 0, 0, 0, Vector.replicate 32 0, 0, 0, 0, 0, 0, 0, 0, 0, 0, 0, 0, 0⟩
  sys := ⟨0, 0, 0, 0, 0, 0⟩
  sh := ⟨0, 0, 0, 0, 0, 0, 0, 0, 0⟩
  imem := imem
  param := param
  agenda := []
  draws := 0

/-- The machine right after reset: the launch state with the standard image (R95, R400; log 2), straps 0 (DESIGN
CHOICE, log 3), `CLK.SWS` = 0 (DESIGN CHOICE, log 4) and `CLK.HSIRDY` = 0 (DESIGN CHOICE, log 5). -/
def State.reset : State := State.launch .internalRC 0 standardImage (Vector.replicate 9 0)

end Sys2Proof.Machine
end

