-- ==== Sys2Proof/Machine/Operands.lean ====
section
/-! DEFINITION. The operand forms (R142): the field space with its ids, widths, classes and legal values (Table 10-F),
the strap space, immediates, targets and bit indices. -/

namespace Sys2Proof.Machine

/-- The 53 assigned fields (Table 10-F). -/
inductive Field where
  | clkSws | clkHsion | clkHsirdy | clkPpre2 | clkTimen | clkAdcen
  | timPsc | timArr | timCcr1 | timOc1m | timOc1pe | timArpe | timUg | timCen | timCnt | timOc1ref
  | adcAdon | adcAdons | adcBank | adcCont | adcExtsel | adcExten | adcL | adcSq1 | adcSmpx | adcSwstart
  | adcEoc | adcJeoc | adcDr | adcJdr1 | adcJdr2 | adcJdr3 | adcJdr4 | adcSr | adcIrqen | adcArmed | adcBusy
  | sysIe | sysInh | sysTickp | sysPhase | sysEpc | sysFcause | sysT
  | shMs | shBg | shTc | shSip | shRegres | shInjres1 | shInjres2 | shInjres3 | shInjres4
deriving DecidableEq, Repr

/-- The access classes (R92). -/
inductive AccessClass where
  | rw | rwA | ro | roE | roDerived | cmd | flag
deriving DecidableEq, Repr

/-- The five groups of the field space (R102, R108). -/
inductive Group where
  | clk | tim | adc | sys | sh
deriving DecidableEq, Repr

/-- One row of Table 10-F: the id, the width in bits and the access class of a field. -/
structure FieldRow where
  id : FieldId
  width : Nat
  cls : AccessClass
deriving DecidableEq, Repr

/-- Table 10-F, columns id, bits and class (R41). The alias `ADC.SMPX` is of class RW, `ADC.DR` of class RO (R92). -/
def Field.row : Field → FieldRow
  | .clkSws => ⟨0x00, 2, .roE⟩
  | .clkHsion => ⟨0x01, 1, .rw⟩
  | .clkHsirdy => ⟨0x02, 1, .roE⟩
  | .clkPpre2 => ⟨0x03, 3, .rw⟩
  | .clkTimen => ⟨0x04, 1, .rw⟩
  | .clkAdcen => ⟨0x05, 1, .rw⟩
  | .timPsc => ⟨0x08, 16, .rw⟩
  | .timArr => ⟨0x09, 16, .rw⟩
  | .timCcr1 => ⟨0x0A, 16, .rw⟩
  | .timOc1m => ⟨0x0B, 3, .rw⟩
  | .timOc1pe => ⟨0x0C, 1, .rw⟩
  | .timArpe => ⟨0x0D, 1, .rw⟩
  | .timUg => ⟨0x0E, 1, .cmd⟩
  | .timCen => ⟨0x0F, 1, .rw⟩
  | .timCnt => ⟨0x10, 16, .ro⟩
  | .timOc1ref => ⟨0x11, 1, .roDerived⟩
  | .adcAdon => ⟨0x18, 1, .rw⟩
  | .adcAdons => ⟨0x19, 1, .ro⟩
  | .adcBank => ⟨0x1A, 1, .rw⟩
  | .adcCont => ⟨0x1B, 1, .rw⟩
  | .adcExtsel => ⟨0x1C, 4, .rw⟩
  | .adcExten => ⟨0x1D, 2, .rw⟩
  | .adcL => ⟨0x1E, 5, .rw⟩
  | .adcSq1 => ⟨0x1F, 5, .rw⟩
  | .adcSmpx => ⟨0x20, 3, .rw⟩
  | .adcSwstart => ⟨0x21, 1, .cmd⟩
  | .adcEoc => ⟨0x22, 1, .flag⟩
  | .adcJeoc => ⟨0x23, 1, .flag⟩
  | .adcDr => ⟨0x24, 16, .ro⟩
  | .adcJdr1 => ⟨0x25, 16, .ro⟩
  | .adcJdr2 => ⟨0x26, 16, .ro⟩
  | .adcJdr3 => ⟨0x27, 16, .ro⟩
  | .adcJdr4 => ⟨0x28, 16, .ro⟩
  | .adcSr => ⟨0x29, 16, .roDerived⟩
  | .adcIrqen => ⟨0x2A, 1, .rw⟩
  | .adcArmed => ⟨0x2B, 1, .ro⟩
  | .adcBusy => ⟨0x2C, 1, .ro⟩
  | .sysIe => ⟨0x30, 1, .ro⟩
  | .sysInh => ⟨0x31, 1, .ro⟩
  | .sysTickp => ⟨0x32, 1, .ro⟩
  | .sysPhase => ⟨0x33, 3, .roDerived⟩
  | .sysEpc => ⟨0x34, 6, .ro⟩
  | .sysFcause => ⟨0x35, 3, .ro⟩
  | .sysT => ⟨0x36, 16, .ro⟩
  | .shMs => ⟨0x37, 32, .rw⟩
  | .shBg => ⟨0x38, 1, .rwA⟩
  | .shTc => ⟨0x39, 1, .rwA⟩
  | .shSip => ⟨0x3A, 1, .rw⟩
  | .shRegres => ⟨0x3B, 16, .rw⟩
  | .shInjres1 => ⟨0x3C, 16, .rw⟩
  | .shInjres2 => ⟨0x3D, 16, .rw⟩
  | .shInjres3 => ⟨0x3E, 16, .rw⟩
  | .shInjres4 => ⟨0x3F, 16, .rw⟩

/-- The fields in the order of their ids. -/
def Field.all : List Field :=
  [.clkSws, .clkHsion, .clkHsirdy, .clkPpre2, .clkTimen, .clkAdcen,
   .timPsc, .timArr, .timCcr1, .timOc1m, .timOc1pe, .timArpe, .timUg, .timCen, .timCnt, .timOc1ref,
   .adcAdon, .adcAdons, .adcBank, .adcCont, .adcExtsel, .adcExten, .adcL, .adcSq1, .adcSmpx, .adcSwstart,
   .adcEoc, .adcJeoc, .adcDr, .adcJdr1, .adcJdr2, .adcJdr3, .adcJdr4, .adcSr, .adcIrqen, .adcArmed, .adcBusy,
   .sysIe, .sysInh, .sysTickp, .sysPhase, .sysEpc, .sysFcause, .sysT,
   .shMs, .shBg, .shTc, .shSip, .shRegres, .shInjres1, .shInjres2, .shInjres3, .shInjres4]

/-- The field an id names; none where the id is unassigned, so `Assigned(f)` (R108) says that this is some field. -/
def Field.ofId (f : FieldId) : Option Field := Field.all.find? fun x => x.row.id == f

/-- The width of a field in bits. -/
def Field.width (x : Field) : Nat := x.row.width

/-- The access class of a field. -/
def Field.cls (x : Field) : AccessClass := x.row.cls

/-- `Group(f)`, by the id ranges of R102 (R108). -/
def Field.group (x : Field) : Group :=
  if x.row.id.toNat < 0x08 then .clk
  else if x.row.id.toNat < 0x18 then .tim
  else if x.row.id.toNat < 0x30 then .adc
  else if x.row.id.toNat < 0x37 then .sys
  else .sh

/-- `Writable(f)`: class RW, RW-A, CMD or FLAG (R108). -/
def Field.writable (x : Field) : Bool :=
  match x.cls with
  | .rw | .rwA | .cmd | .flag => true
  | .ro | .roE | .roDerived => false

/-- The destinations of `INC`: class RW or RW-A (R184). -/
def Field.countable (x : Field) : Bool :=
  match x.cls with
  | .rw | .rwA => true
  | .ro | .roE | .roDerived | .cmd | .flag => false

/-- The legal-values column of Table 10-F where it does not admit every value of the width. -/
def Field.listed (x : Field) (v : BusWord) : Bool :=
  match x with
  | .clkSws => decide (v.toNat ≤ 2)
  | .timOc1m => decide (v = 0 ∨ v = 6)
  | .adcL => decide (v = 0)
  | _ => true

/-- `Legal(f, v)`: the value fits the field and is one of its legal values (R108). -/
def Field.legal (x : Field) (v : BusWord) : Bool := decide (v.toNat < 2 ^ x.width) && x.listed v

/-- `zext_32` of a 6-bit immediate (R143). -/
def immediate (k : BitVec 6) : BusWord := k.setWidth 32

/-- `PARAM[p]`, zero-extended to the bus; none where the strap index is unassigned (above 8, R100). -/
def strap (s : State) (p : StrapId) : Option BusWord :=
  if h : p.toNat < 9 then some ((s.param[p.toNat]'h).setWidth 32) else none

/-- `T[i] = 1` (R222, R223). -/
def latchBit (s : State) (i : BitVec 6) : Bool := s.sys.latch.getLsbD i.toNat

end Sys2Proof.Machine
end

