-- ==== Sys2Proof/Machine/Flags.lean ====
section
/-! DEFINITION. The status flags and derived signals: functions of the stored state (R39, R40, R57, R72, R263, R310,
R380, R440). There are no arithmetic condition codes (R40). -/

namespace Sys2Proof.Machine

/-- A condition as a 1-bit value. -/
def bit (b : Bool) : Bit := BitVec.ofBool b

/-- `oc1ref`, the timer's channel-1 output (R310): high in PWM mode 1 while the counter is below the active compare
value, unsigned; low in frozen mode. -/
def oc1ref (t : Tim) : Bit := bit (decide (t.oc1m = 6) && decide (t.cnt.toNat < t.ccrA.toNat))

/-- The converter status word `ADC.SR` (R72). -/
def statusWord (a : Adc) : BitVec 16 := (0 : BitVec 11) ++ a.busy ++ a.armed ++ a.adons ++ a.jeoc ++ a.eoc

/-- The converter's interrupt line, a level (R380, R471). -/
def adcIrq (s : State) : Bool := decide (s.adc.irqen = 1) && (decide (s.adc.eoc = 1) || decide (s.adc.jeoc = 1))

/-- A request that the sequencer takes before its next operation (R480). -/
def interruptTakeable (s : State) : Bool := decide (s.sys.ie = 1) && (decide (s.sys.tickp = 1) || adcIrq s)

/-- `FAULTED` (R38). -/
def faulted (s : State) : Bool := decide (s.sys.fcause ≠ 0)

/-- `ClkStable` (R263). -/
def clkStable (c : Clk) : Bool := decide (c.sws = 0) && decide (c.hsion = 1) && decide (c.hsirdy = 1)

/-- `c_clk` of R440. -/
def clockConfigured (c : Clk) : Bool :=
  clkStable c && decide (c.ppre2 = 0) && decide (c.timen = 1) && decide (c.adcen = 1)

/-- `c_tim` of R440. -/
def timerConfigured (t : Tim) : Bool :=
  decide (t.oc1m = 6) && decide (t.oc1pe = 1) && decide (t.arpe = 1) && decide (t.cen = 1)

/-- `SYS.PHASE` (R440): the first line that applies. -/
def phase (s : State) : BitVec 3 :=
  if !clockConfigured s.clk then 0
  else if !timerConfigured s.tim then 1
  else if s.adc.adon = 0 then 2
  else if s.adc.adons = 0 ∨ s.adc.armed = 0 then 3
  else if s.adc.busy = 1 then 5
  else if s.adc.eoc = 1 then 6
  else 4

end Sys2Proof.Machine
end

