-- ==== Sys2Proof/Machine/Converter.lean ====
section
/-! DEFINITION. The sampling converter as an agent: readiness, trigger acceptance, completion, injected results
(`46_converter_fsm.md`). -/

namespace Sys2Proof.Machine

/-- The two polarities of an edge of `oc1ref` (R311). -/
inductive Edge where
  | rising
  | falling
deriving DecidableEq, Repr

/-- `EdgeMatch(e)` against `ADC.EXTEN` (R365). -/
def edgeMatch (exten : BitVec 2) (e : Edge) : Bool :=
  (decide (exten = 1) && decide (e = .rising)) || (decide (exten = 2) && decide (e = .falling)) || decide (exten = 3)

/-- When a pulse that reaches the converter is accepted (R365). -/
def pulseAccepted (e : Edge) (s : State) : Bool :=
  decide (s.clk.adcen = 1) && decide (s.adc.adon = 1) && decide (s.adc.adons = 1) && decide (s.adc.armed = 1) &&
    decide (s.adc.busy = 0) && edgeMatch s.adc.exten e

/-- The start of a conversion: busy, with the channel and bank latched (R365). -/
def startConversion (a : Adc) : Adc := { a with busy := 1, convCh := a.sq1, convBank := a.bank }

/-- Trigger acceptance (R365); a pulse that is not accepted is dropped without a trace (R366). -/
def acceptPulse (e : Edge) (s : State) : State :=
  if pulseAccepted e s then { s with adc := startConversion s.adc } else s

/-- `TriggerPulse(e)`: the pulse reaches the converter only under `ADC.EXTSEL` = 7 (R320, R321). -/
def triggerPulse (e : Edge) (s : State) : State :=
  if s.adc.extsel = 7 then acceptPulse e s else s

/-- Whether `AdcReady` is enabled (R360). -/
def adcReadyEnabled (s : State) : Bool :=
  decide (s.clk.adcen = 1) && decide (s.adc.adon = 1) && decide (s.adc.adons = 0)

/-- `AdcReady` (R360). -/
def adcReady (s : State) : State :=
  if adcReadyEnabled s then { s with adc := { s.adc with adons := 1 } } else s

/-- Whether `AdcComplete` is enabled (R372). -/
def adcCompleteEnabled (s : State) : Bool := decide (s.clk.adcen = 1) && decide (s.adc.busy = 1)

/-- The converter after a completion: the value right-aligned, the flag set, not busy (R372); in single-shot mode no
longer armed (R373). An unread result is overwritten without a record (R374). -/
def completeConversion (v : Sample) (a : Adc) : Adc :=
  { a with dr := v.setWidth 16, eoc := 1, busy := 0, armed := if a.cont = 0 then 0 else a.armed }

/-- `AdcComplete(v)` (R372, R373). -/
def adcComplete (v : Sample) (s : State) : State :=
  if adcCompleteEnabled s then { s with adc := completeConversion v s.adc } else s

/-- Whether `EnvInjected` is enabled (R378). -/
def envInjectedEnabled (s : State) : Bool :=
  decide (s.clk.adcen = 1) && decide (s.adc.adon = 1) && decide (s.adc.adons = 1)

/-- `EnvInjected(a, b, c, d)` (R378). -/
def envInjected (a b c d : Sample) (s : State) : State :=
  if envInjectedEnabled s then
    { s with adc := { s.adc with
        jdr1 := a.setWidth 16, jdr2 := b.setWidth 16, jdr3 := c.setWidth 16, jdr4 := d.setWidth 16, jeoc := 1 } }
  else s

end Sys2Proof.Machine
end

