-- ==== Sys2Proof/Machine/Timer.lean ====
section
/-! DEFINITION. The trigger timer as an agent, and the evaluation of the edges of its output
(`45_timer_and_trigger.md`). -/

namespace Sys2Proof.Machine

/-- `ARR_OFFSET` of version 1 (Table 00-A, R301): ticks per period = active period + this. Log 15. -/
def arrOffset : Nat := 0

/-- `P`, the counter steps of one period (R301). -/
def periodSteps (t : Tim) : Nat := t.arrA.toNat + arrOffset

/-- `UpdateEvent` (R304): the active registers take the preload values, counter and prescaler counter restart. -/
def updateEvent (t : Tim) : Tim :=
  { t with pscA := t.psc, arrA := t.arr, ccrA := t.ccr1, cnt := 0, pscCnt := 0 }

/-- `CounterStep` (R301): blocked while the period is 0, an update event at the period's end, else one up. -/
def counterStep (t : Tim) : Tim :=
  if periodSteps t = 0 then t
  else if periodSteps t ≤ t.cnt.toNat + 1 then updateEvent t
  else { t with cnt := t.cnt + 1 }

/-- One source-clock tick of a running timer (R300). -/
def tickTim (t : Tim) : Tim :=
  if t.pscCnt.toNat < t.pscA.toNat then { t with pscCnt := t.pscCnt + 1 }
  else counterStep { t with pscCnt := 0 }

/-- Edge evaluation (R311): an atomic step that moved `oc1ref` from its value `before` ends with the pulse of that
edge, delivered inside the step. -/
def evalEdge (before : Tim) (s : State) : State :=
  if oc1ref before = 0 ∧ oc1ref s.tim = 1 then triggerPulse .rising s
  else if oc1ref before = 1 ∧ oc1ref s.tim = 0 then triggerPulse .falling s
  else s

/-- Replace the timer's state inside one atomic step, with the edge evaluation that follows (R311). -/
def putTim (t : Tim) (s : State) : State := evalEdge s.tim { s with tim := t }

/-- Whether `TimerTick` is enabled (R300). -/
def timerTickEnabled (s : State) : Bool := decide (s.clk.timen = 1) && decide (s.tim.cen = 1)

/-- `TimerTick` (R300). -/
def timerTick (s : State) : State := if timerTickEnabled s then putTim (tickTim s.tim) s else s

end Sys2Proof.Machine
end

