-- ==== Sys2Proof/Machine/Ops.lean ====
section
/-! DEFINITION. The shared operations: draws of `any`, field reads and writes with gating (`20_memory.md` section 3),
raising a fault (R462), taking an interrupt and returning from one (R481, R483), and the fetch (R101). -/

namespace Sys2Proof.Machine

/-! ### Draws of `any(S)` (R14) -/

/-- The `k`-th draw, cut to `w` bits: any value of the width. -/
def anyBits (w k : Nat) : BitVec w := (Config.anyValue k).setWidth w

/-- The `k`-th draw, cut to the values a 12-bit data register can hold (R70, R71). -/
def anyData (k : Nat) : BitVec 16 := (anyBits 12 k).setWidth 16

/-- The `k`-th draw, cut to the legal values of `TIM.OC1M` (Table 10-F). -/
def anyMode (k : Nat) : BitVec 3 := if anyBits 1 k = 1 then 6 else 0

/-- Count `n` draws, so that the next ones are fresh. -/
def countDraws (n : Nat) (s : State) : State := { s with draws := s.draws + n }

/-- `any(0 .. 2^width(f) - 1)`, the value of a gated read (R110). -/
def anyOfWidth (x : Field) (k : Nat) : BusWord := BitVec.ofNat 32 ((Config.anyValue k).toNat % 2 ^ x.width)

/-- `any` of the legal values of a field, the content a gated write leaves (R113). -/
def anyLegal (x : Field) (k : Nat) : BusWord :=
  match x with
  | .timOc1m => (anyMode k).setWidth 32
  | .adcL => 0
  | _ => anyOfWidth x k

/-! ### Reads -/

/-- `Gated(f)` (R109). -/
def gated (x : Field) (s : State) : Bool :=
  match x.group with
  | .tim => decide (s.clk.timen = 0)
  | .adc => decide (s.clk.adcen = 0)
  | .clk | .sys | .sh => false

/-- The sample-time cell that `ADC.SMPX` addresses: `SMP[F[ADC.SQ1]]` (R66). -/
def smpCell (a : Adc) : BitVec 3 := a.smp[a.sq1.toNat]'a.sq1.isLt

/-- `Value(f)` (R110), on the bus. -/
def value (x : Field) (s : State) : BusWord :=
  match x with
  | .clkSws => s.clk.sws.setWidth 32
  | .clkHsion => s.clk.hsion.setWidth 32
  | .clkHsirdy => s.clk.hsirdy.setWidth 32
  | .clkPpre2 => s.clk.ppre2.setWidth 32
  | .clkTimen => s.clk.timen.setWidth 32
  | .clkAdcen => s.clk.adcen.setWidth 32
  | .timPsc => s.tim.psc.setWidth 32
  | .timArr => s.tim.arr.setWidth 32
  | .timCcr1 => s.tim.ccr1.setWidth 32
  | .timOc1m => s.tim.oc1m.setWidth 32
  | .timOc1pe => s.tim.oc1pe.setWidth 32
  | .timArpe => s.tim.arpe.setWidth 32
  | .timUg => 0
  | .timCen => s.tim.cen.setWidth 32
  | .timCnt => s.tim.cnt.setWidth 32
  | .timOc1ref => (oc1ref s.tim).setWidth 32
  | .adcAdon => s.adc.adon.setWidth 32
  | .adcAdons => s.adc.adons.setWidth 32
  | .adcBank => s.adc.bank.setWidth 32
  | .adcCont => s.adc.cont.setWidth 32
  | .adcExtsel => s.adc.extsel.setWidth 32
  | .adcExten => s.adc.exten.setWidth 32
  | .adcL => s.adc.seqLen.setWidth 32
  | .adcSq1 => s.adc.sq1.setWidth 32
  | .adcSmpx => (smpCell s.adc).setWidth 32
  | .adcSwstart => 0
  | .adcEoc => s.adc.eoc.setWidth 32
  | .adcJeoc => s.adc.jeoc.setWidth 32
  | .adcDr => s.adc.dr.setWidth 32
  | .adcJdr1 => s.adc.jdr1.setWidth 32
  | .adcJdr2 => s.adc.jdr2.setWidth 32
  | .adcJdr3 => s.adc.jdr3.setWidth 32
  | .adcJdr4 => s.adc.jdr4.setWidth 32
  | .adcSr => (statusWord s.adc).setWidth 32
  | .adcIrqen => s.adc.irqen.setWidth 32
  | .adcArmed => s.adc.armed.setWidth 32
  | .adcBusy => s.adc.busy.setWidth 32
  | .sysIe => s.sys.ie.setWidth 32
  | .sysInh => s.sys.inh.setWidth 32
  | .sysTickp => s.sys.tickp.setWidth 32
  | .sysPhase => (phase s).setWidth 32
  | .sysEpc => s.sys.epc.setWidth 32
  | .sysFcause => s.sys.fcause.setWidth 32
  | .sysT => s.sys.latch.setWidth 32
  | .shMs => s.sh.ms
  | .shBg => s.sh.bg.setWidth 32
  | .shTc => s.sh.tc.setWidth 32
  | .shSip => s.sh.sip.setWidth 32
  | .shRegres => s.sh.regres.setWidth 32
  | .shInjres1 => s.sh.injres1.setWidth 32
  | .shInjres2 => s.sh.injres2.setWidth 32
  | .shInjres3 => s.sh.injres3.setWidth 32
  | .shInjres4 => s.sh.injres4.setWidth 32

/-- `Peek(f)` (R110): any value of the width while gated, else `Value(f)`; the second component counts the draw and is
otherwise the same state. -/
def peek (x : Field) (s : State) : BusWord × State :=
  if gated x s then (anyOfWidth x s.draws, countDraws 1 s) else (value x s, s)

/-- `ReadEffect(f)` (R111): a read of an ungated `ADC.DR` clears `ADC.EOC`; no other read has an effect. -/
def readEffect (x : Field) (s : State) : State :=
  if x = .adcDr ∧ gated x s = false then { s with adc := { s.adc with eoc := 0 } } else s

/-! ### Writes -/

/-- `F[f] <- v` for a stored writable field; for the alias `ADC.SMPX`, `SMP[F[ADC.SQ1]] <- v` (R349). A change of
`TIM.OC1M` is followed by the edge evaluation (R295, R311). Fields that store nothing, and fields no operation writes,
stay as they are. -/
def storeField (x : Field) (v : BusWord) (s : State) : State :=
  match x with
  | .clkHsion => { s with clk := { s.clk with hsion := v.setWidth 1 } }
  | .clkPpre2 => { s with clk := { s.clk with ppre2 := v.setWidth 3 } }
  | .clkTimen => { s with clk := { s.clk with timen := v.setWidth 1 } }
  | .clkAdcen => { s with clk := { s.clk with adcen := v.setWidth 1 } }
  | .timPsc => { s with tim := { s.tim with psc := v.setWidth 16 } }
  | .timArr => { s with tim := { s.tim with arr := v.setWidth 16 } }
  | .timCcr1 => { s with tim := { s.tim with ccr1 := v.setWidth 16 } }
  | .timOc1m => putTim { s.tim with oc1m := v.setWidth 3 } s
  | .timOc1pe => { s with tim := { s.tim with oc1pe := v.setWidth 1 } }
  | .timArpe => { s with tim := { s.tim with arpe := v.setWidth 1 } }
  | .timCen => { s with tim := { s.tim with cen := v.setWidth 1 } }
  | .adcAdon => { s with adc := { s.adc with adon := v.setWidth 1 } }
  | .adcBank => { s with adc := { s.adc with bank := v.setWidth 1 } }
  | .adcCont => { s with adc := { s.adc with cont := v.setWidth 1 } }
  | .adcExtsel => { s with adc := { s.adc with extsel := v.setWidth 4 } }
  | .adcExten => { s with adc := { s.adc with exten := v.setWidth 2 } }
  | .adcL => { s with adc := { s.adc with seqLen := v.setWidth 5 } }
  | .adcSq1 => { s with adc := { s.adc with sq1 := v.setWidth 5 } }
  | .adcSmpx => { s with adc := { s.adc with smp := s.adc.smp.set s.adc.sq1.toNat (v.setWidth 3) s.adc.sq1.isLt } }
  | .adcEoc => { s with adc := { s.adc with eoc := v.setWidth 1 } }
  | .adcJeoc => { s with adc := { s.adc with jeoc := v.setWidth 1 } }
  | .adcIrqen => { s with adc := { s.adc with irqen := v.setWidth 1 } }
  | .shMs => { s with sh := { s.sh with ms := v } }
  | .shBg => { s with sh := { s.sh with bg := v.setWidth 1 } }
  | .shTc => { s with sh := { s.sh with tc := v.setWidth 1 } }
  | .shSip => { s with sh := { s.sh with sip := v.setWidth 1 } }
  | .shRegres => { s with sh := { s.sh with regres := v.setWidth 16 } }
  | .shInjres1 => { s with sh := { s.sh with injres1 := v.setWidth 16 } }
  | .shInjres2 => { s with sh := { s.sh with injres2 := v.setWidth 16 } }
  | .shInjres3 => { s with sh := { s.sh with injres3 := v.setWidth 16 } }
  | .shInjres4 => { s with sh := { s.sh with injres4 := v.setWidth 16 } }
  | .timUg | .adcSwstart => s
  | .clkSws | .clkHsirdy | .timCnt | .timOc1ref | .adcAdons | .adcDr | .adcJdr1 | .adcJdr2 | .adcJdr3 | .adcJdr4 => s
  | .adcSr | .adcArmed | .adcBusy | .sysIe | .sysInh | .sysTickp | .sysPhase | .sysEpc | .sysFcause | .sysT => s

/-- The clock group after a write of `CLK.HSION`: a 0 also drops the ready flag (R262). -/
def writeHsion (v : Bit) (c : Clk) : Clk := { c with hsion := v, hsirdy := if v = 0 then 0 else c.hsirdy }

/-- Where a write to a gate bit is `undefined GateBeforeClockReady` (R263): setting a bit that is 0 while the clock is
not stable. Writing 1 to a bit that is already 1 only stores (R263's last sentence; log 13). -/
def gateUndefined (v old : Bit) (c : Clk) : Bool := decide (v = 1) && decide (old = 0) && !clkStable c

/-- The timer's whole state at any value, each register within its legal values (U4, log 10). -/
def anyTim (k : Nat) : Tim where
  psc := anyBits 16 k
  arr := anyBits 16 (k + 1)
  ccr1 := anyBits 16 (k + 2)
  oc1m := anyMode (k + 3)
  oc1pe := anyBits 1 (k + 4)
  arpe := anyBits 1 (k + 5)
  cen := anyBits 1 (k + 6)
  cnt := anyBits 16 (k + 7)
  pscA := anyBits 16 (k + 8)
  arrA := anyBits 16 (k + 9)
  ccrA := anyBits 16 (k + 10)
  pscCnt := anyBits 16 (k + 11)

/-- How many draws `anyTim` takes. -/
def anyTimDraws : Nat := 12

/-- The converter's whole state at any value, each register within its legal values (U4, log 10). -/
def anyAdc (k : Nat) : Adc where
  adon := anyBits 1 k
  adons := anyBits 1 (k + 1)
  bank := anyBits 1 (k + 2)
  cont := anyBits 1 (k + 3)
  extsel := anyBits 4 (k + 4)
  exten := anyBits 2 (k + 5)
  seqLen := 0
  sq1 := anyBits 5 (k + 6)
  smp := Vector.ofFn fun i => anyBits 3 (k + 20 + i.val)
  eoc := anyBits 1 (k + 7)
  jeoc := anyBits 1 (k + 8)
  dr := anyData (k + 9)
  jdr1 := anyData (k + 10)
  jdr2 := anyData (k + 11)
  jdr3 := anyData (k + 12)
  jdr4 := anyData (k + 13)
  irqen := anyBits 1 (k + 14)
  armed := anyBits 1 (k + 15)
  busy := anyBits 1 (k + 16)
  convCh := anyBits 5 (k + 17)
  convBank := anyBits 1 (k + 18)

/-- How many draws `anyAdc` takes. -/
def anyAdcDraws : Nat := 52

/-- A write of `CLK.TIMEN` (R263); at the undefined point the bit is stored and the timer's whole state is any value
(U4's totalising alternative, log 10). -/
def writeTimen (v : Bit) (s : State) : State :=
  if gateUndefined v s.clk.timen s.clk then
    countDraws anyTimDraws (putTim (anyTim s.draws) { s with clk := { s.clk with timen := v } })
  else { s with clk := { s.clk with timen := v } }

/-- A write of `CLK.ADCEN` (R263); at the undefined point the bit is stored and the converter's whole state is any
value (U4's totalising alternative, log 10). -/
def writeAdcen (v : Bit) (s : State) : State :=
  if gateUndefined v s.clk.adcen s.clk then
    countDraws anyAdcDraws { s with clk := { s.clk with adcen := v }, adc := anyAdc s.draws }
  else { s with clk := { s.clk with adcen := v } }

/-- The timer after a write of `TIM.ARR`: active at once while the preload enable is 0 (R293). So `MOV TIM.ARR, TIM.ARR`
then reloads an active period that differs from the preload, though R202 says that `MOV f, f` changes nothing (log 26). -/
def writeArr (v : BitVec 16) (t : Tim) : Tim := { t with arr := v, arrA := if t.arpe = 0 then v else t.arrA }

/-- The timer after a write of `TIM.CCR1`: active at once while the preload enable is 0 (R294), also by
`MOV TIM.CCR1, TIM.CCR1` (log 26). -/
def writeCcr1 (v : BitVec 16) (t : Tim) : Tim := { t with ccr1 := v, ccrA := if t.oc1pe = 0 then v else t.ccrA }

/-- Where the command `TIM.UG` = 1 is `undefined UpdateWithoutPreload` (R298). -/
def updateUndefined (t : Tim) : Bool := decide (t.oc1pe = 0) || decide (t.arpe = 0)

/-- A write of `TIM.UG` (R298); at the undefined point the update event happens with the three active registers at any
value (U5's totalising alternative, log 11). -/
def writeUg (v : Bit) (s : State) : State :=
  if v = 0 then s
  else if updateUndefined s.tim then
    countDraws 3 (putTim { updateEvent s.tim with
      pscA := anyBits 16 s.draws, arrA := anyBits 16 (s.draws + 1), ccrA := anyBits 16 (s.draws + 2) } s)
  else putTim (updateEvent s.tim) s

/-- The converter after a write of `ADC.ADON` (R341): a 0 also drops ready, armed and busy. -/
def writeAdon (v : Bit) (a : Adc) : Adc :=
  if v = 0 then { a with adon := 0, adons := 0, armed := 0, busy := 0 } else { a with adon := 1 }

/-- Where the start command is `undefined StartBeforeReady` (R362). -/
def startUndefined (a : Adc) : Bool := !(decide (a.adon = 1) && decide (a.adons = 1))

/-- The converter after a start before ready: nothing, or armed with `ADC.DR` and `ADC.EOC` at any value, a free choice
between the source's two options (U6's totalising alternative, log 12). -/
def anyStart (k : Nat) (a : Adc) : Adc :=
  if anyBits 1 k = 0 then a else { a with armed := 1, dr := anyData (k + 1), eoc := anyBits 1 (k + 2) }

/-- A write of `ADC.SWSTART`: the start command arms and does nothing else (R362). -/
def writeSwstart (v : Bit) (s : State) : State :=
  if v = 0 then s
  else if startUndefined s.adc then countDraws 3 { s with adc := anyStart s.draws s.adc }
  else { s with adc := { s.adc with armed := 1 } }

/-- A write of a field that is not gated: the field's own write rule (R112, Table 20-W), else `F[f] <- v`. A FLAG field
is cleared by 0 and left alone by 1 (R376). -/
def writeOpen (x : Field) (v : BusWord) (s : State) : State :=
  match x with
  | .clkHsion => { s with clk := writeHsion (v.setWidth 1) s.clk }
  | .clkTimen => writeTimen (v.setWidth 1) s
  | .clkAdcen => writeAdcen (v.setWidth 1) s
  | .timArr => { s with tim := writeArr (v.setWidth 16) s.tim }
  | .timCcr1 => putTim (writeCcr1 (v.setWidth 16) s.tim) s
  | .timUg => writeUg (v.setWidth 1) s
  | .adcAdon => { s with adc := writeAdon (v.setWidth 1) s.adc }
  | .adcSwstart => writeSwstart (v.setWidth 1) s
  | .adcEoc => if v = 0 then { s with adc := { s.adc with eoc := 0 } } else s
  | .adcJeoc => if v = 0 then { s with adc := { s.adc with jeoc := 0 } } else s
  | _ => storeField x v s

/-- A write of a gated field (R113): a command does nothing; a stored field's content becomes any legal value, with no
other effect than the edge that a change of `TIM.OC1M` may make (R311). -/
def writeGated (x : Field) (s : State) : State :=
  if x.cls = .cmd then s else countDraws 1 (storeField x (anyLegal x s.draws) s)

/-- `WriteField(f, v)`, called after the operation's checks (R112). -/
def writeField (x : Field) (v : BusWord) (s : State) : State := if gated x s then writeGated x s else writeOpen x v s

/-! ### Faults (R461 to R464) -/

/-- The fault causes (R461). -/
inductive Cause where
  | illop | badField | badParam | badAccess | badValue | badCtx
deriving DecidableEq, Repr

/-- The code of a cause in `SYS.FCAUSE` (R461). -/
def Cause.code : Cause → BitVec 3
  | .illop => 1
  | .badField => 2
  | .badParam => 3
  | .badAccess => 4
  | .badValue => 5
  | .badCtx => 6

/-- Record a cause in `SYS.FCAUSE`, and nothing else (R462). -/
def recordFault (c : Cause) (s : State) : State := { s with sys := { s.sys with fcause := c.code } }

/-- `raise Fault(c)` (R462): a next state, in which the sequencer is stopped and `pc` still names the operation. -/
def raise (c : Cause) (s : State) : Host.Outcome State Fault Refusal := .next (recordFault c s)

/-! ### Control transfer (R225) -/

/-- `pc <- (pc + 1) mod 64` (R33). -/
def advance (s : State) : State := { s with pc := s.pc + 1 }

/-- `pc <- t` (R221). -/
def jumpTo (t : Addr) (s : State) : State := { s with pc := t }

/-! ### Interrupts (R480 to R483) -/

/-- `VEC_ADC` (Table 00-A). -/
def vecAdc : Addr := 0x20

/-- `VEC_TICK` (Table 00-A). -/
def vecTick : Addr := 0x38

/-- `InterruptEntry` (R481): the pc is saved, interrupts are disabled, the context is the handler's; the tick, if
pending, is taken and cleared first (R475), else the converter's interrupt is taken. -/
def interruptEntry (s : State) : State :=
  if s.sys.tickp = 1 then
    { s with pc := vecTick, sys := { s.sys with epc := s.pc, ie := 0, inh := 1, tickp := 0 } }
  else { s with pc := vecAdc, sys := { s.sys with epc := s.pc, ie := 0, inh := 1 } }

/-- The return from an interrupt routine (R483). -/
def interruptReturn (s : State) : State :=
  { s with pc := s.sys.epc, sys := { s.sys with ie := 1, inh := 0 } }

/-! ### Fetch -/

/-- The bytes of the word at `pc` (R101). -/
def fetch (s : State) : List Byte := s.imem.bytesAt s.pc

end Sys2Proof.Machine
end

