-- ==== Sys2Proof/Machine/Control.lean ====
section
/-! DEFINITION. The wait and control-transfer operations (`42_control_ops.md`). -/

namespace Sys2Proof.Machine

/-- `WAIT f, k` (R220): one execution is one poll, with the read's side effect; `pc` moves on only when the field holds
the immediate. There is no bound and no timeout. -/
def execWait (f : FieldId) (k : BitVec 6) (s : State) : Host.Outcome State Fault Refusal :=
  match Field.ofId f with
  | none => raise .badField s
  | some x =>
    if (peek x s).1 = immediate k then .next (advance (readEffect x (peek x s).2))
    else .next (readEffect x (peek x s).2)

/-- `JMP t` (R221). -/
def execJmp (t : Addr) (s : State) : Host.Outcome State Fault Refusal := .next (jumpTo t s)

/-- `BTS i, t` (R222). A bit index above 15 makes the word an illegal operation (R150; log 20). -/
def execBts (i : BitVec 6) (t : Addr) (s : State) : Host.Outcome State Fault Refusal :=
  if i.toNat ≤ 15 then (if latchBit s i then .next (jumpTo t s) else .next (advance s)) else raise .illop s

/-- `BTC i, t` (R223). A bit index above 15 makes the word an illegal operation (R150; log 20). -/
def execBtc (i : BitVec 6) (t : Addr) (s : State) : Host.Outcome State Fault Refusal :=
  if i.toNat ≤ 15 then (if latchBit s i then .next (advance s) else .next (jumpTo t s)) else raise .illop s

/-- `SPIN p` (R224): only the index is checked; the count consumes time, which the model does not have (R560). -/
def execSpin (p : StrapId) (s : State) : Host.Outcome State Fault Refusal :=
  match strap s p with
  | none => raise .badParam s
  | some _ => .next (advance s)

end Sys2Proof.Machine
end

