-- ==== Sys2Proof/Machine/FieldWrite.lean ====
section
/-! DEFINITION. The field-write operations (`40_field_write_ops.md`). The checks run in the order BADFIELD, BADPARAM,
BADACCESS, BADVALUE (R185), before any effect (R463). -/

namespace Sys2Proof.Machine

/-- The part that `WRI`, `WRP`, `INC` and `MOV` share: check that the value is legal, write it, advance (R112, R185). -/
def writeChecked (x : Field) (v : BusWord) (s : State) : Host.Outcome State Fault Refusal :=
  if x.legal v then .next (advance (writeField x v s)) else raise .badValue s

/-- The part that `SET` and `CLR` share: write a constant to a writable 1-bit field (R182, R183). -/
def writeBit (f : FieldId) (v : BusWord) (s : State) : Host.Outcome State Fault Refusal :=
  match Field.ofId f with
  | none => raise .badField s
  | some x => if x.writable ∧ x.width = 1 then .next (advance (writeField x v s)) else raise .badAccess s

/-- `WRI f, k` (R180). -/
def execWri (f : FieldId) (k : BitVec 6) (s : State) : Host.Outcome State Fault Refusal :=
  match Field.ofId f with
  | none => raise .badField s
  | some x => if x.writable then writeChecked x (immediate k) s else raise .badAccess s

/-- `WRP f, p` (R181). -/
def execWrp (f : FieldId) (p : StrapId) (s : State) : Host.Outcome State Fault Refusal :=
  match Field.ofId f with
  | none => raise .badField s
  | some x =>
    match strap s p with
    | none => raise .badParam s
    | some v => if x.writable then writeChecked x v s else raise .badAccess s

/-- `SET f` (R182). -/
def execSet (f : FieldId) (s : State) : Host.Outcome State Fault Refusal := writeBit f 1 s

/-- `CLR f` (R183). -/
def execClr (f : FieldId) (s : State) : Host.Outcome State Fault Refusal := writeBit f 0 s

/-- The value plus one, wrapping at the field's width (R184). -/
def incremented (x : Field) (v : BusWord) : BusWord := BitVec.ofNat 32 ((v.toNat + 1) % 2 ^ x.width)

/-- `INC f` (R184), one atomic step. The value is a `Peek`: no field it may increment has a read side effect. -/
def execInc (f : FieldId) (s : State) : Host.Outcome State Fault Refusal :=
  match Field.ofId f with
  | none => raise .badField s
  | some x =>
    if x.countable then writeChecked x (incremented x (peek x s).1) (peek x s).2 else raise .badAccess s

end Sys2Proof.Machine
end

