-- ==== Sys2Proof/Machine/LoadMove.lean ====
section
/-! DEFINITION. The load and move operations (`41_load_move_ops.md`). -/

namespace Sys2Proof.Machine

/-- `T <- v[15:0]` (R201). -/
def setLatch (v : BusWord) (s : State) : State := { s with sys := { s.sys with latch := v.setWidth 16 } }

/-- `LDT f` (R201): the field zero-extended or truncated to 16 bits goes to `T`, the read side effect happens. -/
def execLdt (f : FieldId) (s : State) : Host.Outcome State Fault Refusal :=
  match Field.ofId f with
  | none => raise .badField s
  | some x => .next (advance (setLatch (peek x s).1 (readEffect x (peek x s).2)))

/-- `MOV fd, fs` (R202), one atomic step: both ids, the destination's access and the value are checked before the
source's read side effect happens (R200). `MOV f, f` performs the field's write rule like any other `MOV` (DEDUCED,
log 26). -/
def execMov (fd fs : FieldId) (s : State) : Host.Outcome State Fault Refusal :=
  match Field.ofId fd, Field.ofId fs with
  | some d, some src =>
    if d.writable then
      if d.legal (peek src s).1 then
        .next (advance (writeField d (peek src s).1 (readEffect src (peek src s).2)))
      else raise .badValue (peek src s).2
    else raise .badAccess s
  | _, _ => raise .badField s

end Sys2Proof.Machine
end

