-- ==== Sys2Proof/Machine/System.lean ====
section
/-! DEFINITION. The system operations (`43_system_ops.md`). -/

namespace Sys2Proof.Machine

/-- `NOP` (R240). -/
def execNop (s : State) : Host.Outcome State Fault Refusal := .next (advance s)

/-- `HALT` (R241): no state changes at all; the sequencer executes it again until an interrupt is taken. -/
def execHalt (s : State) : Host.Outcome State Fault Refusal := .next s

/-- `EI` (R242): main context only. -/
def execEi (s : State) : Host.Outcome State Fault Refusal :=
  if s.sys.inh = 1 then raise .badCtx s
  else .next (advance { s with sys := { s.sys with ie := 1 } })

/-- `IRET` (R243): handler context only. -/
def execIret (s : State) : Host.Outcome State Fault Refusal :=
  if s.sys.inh = 0 then raise .badCtx s else .next (interruptReturn s)

end Sys2Proof.Machine
end

