-- ==== Sys2Proof/Machine/Dispatch.lean ====
section
/-! DEFINITION. Which meaning each operation has: one arm per constructor of `Instr`. -/

namespace Sys2Proof.Machine

def exec (i : Instr) (s : State) : Host.Outcome State Fault Refusal :=
  match i with
  | .nop => Sys2Proof.Machine.execNop s
  | .halt => Sys2Proof.Machine.execHalt s
  | .iret => Sys2Proof.Machine.execIret s
  | .ei => Sys2Proof.Machine.execEi s
  | .wri f k => Sys2Proof.Machine.execWri f k s
  | .wrp f p => Sys2Proof.Machine.execWrp f p s
  | .set f => Sys2Proof.Machine.execSet f s
  | .clr f => Sys2Proof.Machine.execClr f s
  | .inc f => Sys2Proof.Machine.execInc f s
  | .mov fd fs => Sys2Proof.Machine.execMov fd fs s
  | .wait f k => Sys2Proof.Machine.execWait f k s
  | .jmp t => Sys2Proof.Machine.execJmp t s
  | .bts j t => Sys2Proof.Machine.execBts j t s
  | .btc j t => Sys2Proof.Machine.execBtc j t s
  | .spin p => Sys2Proof.Machine.execSpin p s
  | .ldt f => Sys2Proof.Machine.execLdt f s

end Sys2Proof.Machine
end

