-- ==== Sys2Proof/Machine/Agents.lean ====
section
/-! DEFINITION. The agents' steps (R3, R131): the sequencer's own step, the environment's, the application's, reset,
and the outputs that the block drives (R132). The timer's and the converter's steps are in Timer and Converter. -/

namespace Sys2Proof.Machine

/-- Executing a fetched word: an illegal one raises ILLOP and nothing else happens (R150, R461). -/
def runDecoded (d : Decoded) (s : State) : Host.Outcome State Fault Refusal :=
  match d with
  | .op i => exec i s
  | .illegal _ => raise .illop s

/-- `SeqStep` of a sequencer that is not `FAULTED` (R480): a takeable interrupt is taken instead of the operation at
`pc`; otherwise the word there is fetched, decoded and executed. -/
def seqStep (s : State) : Host.Outcome State Fault Refusal :=
  if interruptTakeable s then .next (interruptEntry s) else runDecoded (decode (fetch s)) s

/-- `EnvSysclkInternal` (R271). -/
def envSysclkInternal (s : State) : State :=
  if s.clk.sws = 0 then s else { s with clk := { s.clk with sws := 0 } }

/-- `EnvOscReady` (R272). -/
def envOscReady (s : State) : State :=
  if s.clk.hsion = 1 ∧ s.clk.hsirdy = 0 then { s with clk := { s.clk with hsirdy := 1 } } else s

/-- `EnvTick` (R474): always enabled; requests coalesce. -/
def envTick (s : State) : State := { s with sys := { s.sys with tickp := 1 } }

/-- `AppWrite(f, v)` (R130). -/
def appWrite (c : AppCell) (v : Bit) (s : State) : State :=
  match c with
  | .bg => { s with sh := { s.sh with bg := v } }
  | .tc => { s with sh := { s.sh with tc := v } }

/-- The value `AppRead(f)` returns (R130); the step itself changes nothing. -/
def appReadValue (c : ShCell) (s : State) : BusWord :=
  match c with
  | .ms => value .shMs s
  | .bg => value .shBg s
  | .tc => value .shTc s
  | .sip => value .shSip s
  | .regres => value .shRegres s
  | .injres1 => value .shInjres1 s
  | .injres2 => value .shInjres2 s
  | .injres3 => value .shInjres3 s
  | .injres4 => value .shInjres4 s

/-- `rst` asserted and released (R520, R523): every piece of state takes its reset value, the clock status as drawn;
the store and the straps are not state (R522), and the model's own fields go on (log 18). -/
def resetStep (src : ClkSource) (osc : Bit) (s : State) : State :=
  { State.launch src osc s.imem s.param with agenda := s.agenda, draws := s.draws }

/-- One agent's step (R131). A step that is not enabled does not happen: the state stays as it is (log 6); the
sequencer's is not enabled while it is `FAULTED` (R462). -/
def agentStep (e : AgentStep) (s : State) : Host.Outcome State Fault Refusal :=
  match e with
  | .seq => if faulted s then .next s else seqStep s
  | .envSysclkInternal => .next (envSysclkInternal s)
  | .envOscReady => .next (envOscReady s)
  | .envTick => .next (envTick s)
  | .envInjected a b c d => .next (envInjected a b c d s)
  | .appRead _ => .next s
  | .appWrite c v => .next (appWrite c v s)
  | .timerTick => .next (timerTick s)
  | .adcReady => .next (adcReady s)
  | .adcComplete v => .next (adcComplete v s)
  | .rst src osc => .next (resetStep src osc s)

/-- The output ports (R132) other than the shared cells, which `appReadValue` gives. -/
structure Outputs where
  oscEn : Bit
  pclk2Div : BitVec 3
  timClkEn : Bit
  adcClkEn : Bit
  oc1Out : Bit
  convCh : BitVec 5
  convBank : Bit
  phaseOut : BitVec 3
  faultOut : Bit
deriving DecidableEq, Repr

/-- What the block drives on its output ports (R132). -/
def outputs (s : State) : Outputs where
  oscEn := s.clk.hsion
  pclk2Div := s.clk.ppre2
  timClkEn := s.clk.timen
  adcClkEn := s.clk.adcen
  oc1Out := oc1ref s.tim
  convCh := s.adc.convCh
  convBank := s.adc.convBank
  phaseOut := phase s
  faultOut := bit (faulted s)

end Sys2Proof.Machine
end

