-- ==== Sys2Proof/Machine/Step.lean ====
section
/-! DEFINITION. One step of the machine: the next agent step of the run (R120, R131). -/

namespace Sys2Proof.Machine

/-- One atomic step. The head of the agenda says which agent steps; with an empty agenda it is the sequencer's turn,
and if the sequencer is `FAULTED` no agent has a step (R462; log 6, 14). -/
def step (s : State) : Host.Outcome State Fault Refusal :=
  match s.agenda with
  | [] => if faulted s then .fault .sequencerStopped else seqStep s
  | e :: rest => agentStep e { s with agenda := rest }

/-- `s` with the word `w` (its low `nbits` bits, at most one operation word) loaded from outside at the address that is
fetched next, and the sequencer's step next. Where the sequencer is not `FAULTED` and no interrupt can be taken, as at
reset, `step` runs exactly that word (log 2). -/
def State.withFetchWord (s : State) (nbits w : Nat) : State :=
  { s with imem := s.imem.writeWord s.pc (BitVec.ofNat 16 (w % 2 ^ nbits)), agenda := .seq :: s.agenda }

end Sys2Proof.Machine
end

