-- ==== Sys2Proof/Safety.lean ====
section
/-! DEFINITION. The terms that claims use: what a step executes, the order a program must keep (R531), the invariants
of the machine, and what an access leaves alone. -/

namespace Sys2Proof.Machine

/-! ### What the next step is -/

/-- The next agent step of the run is the sequencer's (log 6). -/
def sequencerTurn (s : State) : Bool :=
  match s.agenda with
  | [] => true
  | .seq :: _ => true
  | _ => false

/-- The next agent step of the run is an assertion of `rst`. -/
def resetTurn (s : State) : Bool :=
  match s.agenda with
  | .rst _ _ :: _ => true
  | _ => false

/-- The next step takes an interrupt (R480). -/
def takesInterrupt (s : State) : Bool := sequencerTurn s && !faulted s && interruptTakeable s

/-- The operation that the next step executes, if it executes one (R480). -/
def executes (s : State) : Option Instr :=
  if sequencerTurn s && !faulted s && !interruptTakeable s then
    match decode (fetch s) with
    | .op i => some i
    | .illegal _ => none
  else none

/-! ### What an operation accesses -/

/-- The field that an operation reads with its side effect (R200). -/
def readSource : Instr → Option Field
  | .ldt f | .wait f _ | .mov _ f => Field.ofId f
  | .nop | .halt | .iret | .ei | .wri _ _ | .wrp _ _ | .set _ | .clr _ | .inc _ => none
  | .jmp _ | .bts _ _ | .btc _ _ | .spin _ => none

/-- The field that an operation reads, with or without a side effect: the operand of `LDT`, `WAIT` and `INC`, the source
of `MOV`; none where a check that comes before the read fails (R184, R201, R202, R220). -/
def reads : Instr → Option Field
  | .ldt f | .wait f _ => Field.ofId f
  | .inc f => (Field.ofId f).filter fun x => x.countable
  | .mov fd fs => (Field.ofId fd).bind fun d => if d.writable then Field.ofId fs else none
  | .nop | .halt | .iret | .ei | .wri _ _ | .wrp _ _ | .set _ | .clr _ => none
  | .jmp _ | .bts _ _ | .btc _ _ | .spin _ => none

/-- A write that passes the checks of access and value (R185). -/
def passing (ok : Bool) (x : Field) (v : BusWord) : Option (Field × BusWord) :=
  if ok && x.legal v then some (x, v) else none

/-- The `WriteField(f, v)` that an operation performs in a state, none where it performs no write or faults. -/
def writes (i : Instr) (s : State) : Option (Field × BusWord) :=
  match i with
  | .wri f k => (Field.ofId f).bind fun x => passing x.writable x (immediate k)
  | .wrp f p => (Field.ofId f).bind fun x => (strap s p).bind fun v => passing x.writable x v
  | .set f => (Field.ofId f).bind fun x => passing (x.writable && decide (x.width = 1)) x 1
  | .clr f => (Field.ofId f).bind fun x => passing (x.writable && decide (x.width = 1)) x 0
  | .inc f => (Field.ofId f).bind fun x => passing x.countable x (incremented x (peek x s).1)
  | .mov fd fs => (Field.ofId fd).bind fun d => (Field.ofId fs).bind fun src => passing d.writable d (peek src s).1
  | .nop | .halt | .iret | .ei | .wait _ _ | .jmp _ | .bts _ _ | .btc _ _ | .spin _ | .ldt _ => none

/-- The three `undefined` points (R466): `GateBeforeClockReady` (R263), `UpdateWithoutPreload` (R298),
`StartBeforeReady` (R362). -/
def undefinedWrite (x : Field) (v : BusWord) (s : State) : Bool :=
  match x with
  | .clkTimen => gateUndefined (v.setWidth 1) s.clk.timen s.clk
  | .clkAdcen => gateUndefined (v.setWidth 1) s.clk.adcen s.clk
  | .timUg => decide (v = 1) && !gated .timUg s && updateUndefined s.tim
  | .adcSwstart => decide (v = 1) && !gated .adcSwstart s && startUndefined s.adc
  | _ => false

/-- The `WriteField(f, v)` that the next step performs, if it performs one. -/
def writesNow (s : State) : Option (Field × BusWord) := (executes s).bind fun i => writes i s

/-- The next step executes an operation that reaches an `undefined` point. -/
def reachesUndefined (s : State) : Bool :=
  match writesNow s with
  | some (x, v) => undefinedWrite x v s
  | none => false

/-- The next step writes a gated field (R113, R543). -/
def writesGated (s : State) : Bool :=
  match writesNow s with
  | some (x, _) => gated x s
  | none => false

/-- The next step reads a gated field (R110, R543). -/
def readsGated (s : State) : Bool :=
  match (executes s).bind reads with
  | some x => gated x s
  | none => false

/-! ### The order that any image must keep (R531) -/

/-- Point 2: the next step accesses a gated field, by a read or a write (R543). -/
def accessesGated (s : State) : Bool := readsGated s || writesGated s

/-- Point 6: the next step executes `EI` outside main context, or `IRET` outside a routine entered by an interrupt
(R551). -/
def misusesContext (s : State) : Bool :=
  (decide (executes s = some .ei) && decide (s.sys.inh = 1)) ||
    (decide (executes s = some .iret) && decide (s.sys.inh = 0))

/-- The next step keeps R531's points 1, 3 and 4 (no `undefined` point: R542, R545, R544), 2 (no access to a gated
field) and 6 (no context fault). Point 5 is of a whole run: `ChannelFirst`. -/
def keepsOrder (s : State) : Bool := !reachesUndefined s && !accessesGated s && !misusesContext s

/-- The state after `n` steps, none where the run stopped before. -/
def after : Nat → State → Option State
  | 0, s => some s
  | n + 1, s =>
    match step s with
    | .next t => after n t
    | .fault _ => none
    | .refused _ => none

/-- The next step writes the field `x`. -/
def writesField (x : Field) (s : State) : Bool :=
  match writesNow s with
  | some (y, _) => decide (y = x)
  | none => false

/-- Point 5: in the run from `s`, every write of the sample time comes after a write of the channel ordinal, with no
reset from that write on (R553). -/
def ChannelFirst (s : State) : Prop :=
  ∀ (n : Nat) (t : State), after n s = some t → writesField .adcSmpx t = true →
    ∃ m, m < n ∧ (∃ u, after m s = some u ∧ writesField .adcSq1 u = true) ∧
      ∀ k u, m ≤ k → k < n → after k s = some u → resetTurn u = false

/-! ### Invariants -/

/-- Every field holds one of its legal values (Table 10-F, R70, R71, R461) and the store its canonical form (log 1). -/
structure LegalState (s : State) : Prop where
  /-- the value 3 never occurs (R42) -/
  sws : s.clk.sws.toNat ≤ 2
  /-- frozen or PWM mode 1 (R51) -/
  oc1m : s.tim.oc1m = 0 ∨ s.tim.oc1m = 6
  /-- one conversion (R64, R348) -/
  seqLen : s.adc.seqLen = 0
  /-- bits 15:12 of the data registers are zero (R70, R71) -/
  dr : s.adc.dr.toNat < 4096
  jdr1 : s.adc.jdr1.toNat < 4096
  jdr2 : s.adc.jdr2.toNat < 4096
  jdr3 : s.adc.jdr3.toNat < 4096
  jdr4 : s.adc.jdr4.toNat < 4096
  /-- code 7 is never recorded (R461) -/
  fcause : s.sys.fcause ≠ 7
  /-- the store is in its canonical form -/
  imem : s.imem.wf = true

/-- The interrupt state's invariant (R485). -/
def ContextLegal (s : State) : Prop := ¬(s.sys.ie = 1 ∧ s.sys.inh = 1)

/-- The converter is in one of the five states Off, Enabling, Ready, Armed, Converting (R342). -/
structure ConverterLegal (s : State) : Prop where
  ready : s.adc.adons = 1 → s.adc.adon = 1
  armed : s.adc.armed = 1 → s.adc.adons = 1
  busy : s.adc.busy = 1 → s.adc.armed = 1

/-- A quiescent state (R541): parked at a `HALT` in main context, not faulted, no interrupt to take. -/
def quiescent (s : State) : Bool :=
  decide (s.sys.inh = 0) && decide (decode (fetch s) = .op .halt) && !faulted s && !interruptTakeable s

/-- What must hold of the straps before `rst` is released (R402, R530). -/
structure StrapsLegal (p : Vector (BitVec 16) 9) : Prop where
  compare : 0 < p[2].toNat ∧ p[2].toNat < p[1].toNat
  chan : p[3].toNat ≤ 31
  bank : p[4].toNat ≤ 1
  cont : p[5].toNat ≤ 1
  source : p[6] = 7
  irqen : p[7].toNat ≤ 1

/-- The integrator's duty to supply `P_BANK` consistent with `P_CHAN` (R12); the block does not check it. -/
def BankConsistent (p : Vector (BitVec 16) 9) : Prop := p[4] = (Config.bankOf (p[3].setWidth 5)).setWidth 16

/-! ### What an access leaves alone -/

/-- The run's parameters and the schedule are as before: the store, the straps and the agenda. -/
structure RunKept (s t : State) : Prop where
  imem : t.imem = s.imem
  param : t.param = s.param
  agenda : t.agenda = s.agenda

/-- Fields whose write is a plain store with no other effect (R112, R291, R292, R343, R348). -/
def Field.plain : Field → Bool
  | .clkPpre2 | .timPsc | .timOc1pe | .timArpe | .timCen => true
  | .adcBank | .adcCont | .adcExtsel | .adcExten | .adcL | .adcSq1 | .adcIrqen => true
  | .shMs | .shBg | .shTc | .shSip | .shRegres | .shInjres1 | .shInjres2 | .shInjres3 | .shInjres4 => true
  | _ => false

/-- Everything but the content of one field is as before: every other field that is not computed from it (the phase,
and the alias `ADC.SMPX`, whose cell `ADC.SQ1` selects), the hidden state, and the run's parameters. -/
structure OthersKept (x : Field) (s t : State) : Prop where
  fields : ∀ g : Field, g ≠ x → g ≠ .sysPhase → g ≠ .adcSmpx → value g t = value g s
  active : t.tim.pscA = s.tim.pscA ∧ t.tim.arrA = s.tim.arrA ∧ t.tim.ccrA = s.tim.ccrA ∧ t.tim.pscCnt = s.tim.pscCnt
  smp : t.adc.smp = s.adc.smp
  latched : t.adc.convCh = s.adc.convCh ∧ t.adc.convBank = s.adc.convBank
  run : RunKept s t
  draws : t.draws = s.draws

/-- When an edge of `oc1ref` from `before` to `after` starts a conversion (R311, R321, R365). -/
def startsConversion (before after : Bit) (s : State) : Prop :=
  ((before = 0 ∧ after = 1 ∧ (s.adc.exten = 1 ∨ s.adc.exten = 3)) ∨
    (before = 1 ∧ after = 0 ∧ (s.adc.exten = 2 ∨ s.adc.exten = 3))) ∧
  s.adc.extsel = 7 ∧ s.clk.adcen = 1 ∧ s.adc.adon = 1 ∧ s.adc.adons = 1 ∧ s.adc.armed = 1 ∧ s.adc.busy = 0

end Sys2Proof.Machine
end

