-- ==== Sys2Proof/Certificates/Slice0/Obligations.lean ====
section
/-! DEFINITION. The statements for the provers, from the numbered rules of spec/. Each says in its docstring which rule
it formalises; where a clause rests on a choice of the model, the log entry is named. -/

open Sys2Proof Sys2Proof.Machine

/-! ### Encoding -/

/-- R146: decoding an encoded well-formed operation gives it back; every word that decodes has exactly that encoding;
`SET f` and `WRI f, 1` (`CLR f` and `WRI f, 0`) have the same effect on a 1-bit field but remain different words. -/
def Obligations.DecodeEncodeAgree : Prop :=
  (∀ i : Instr, i.wellFormed = true → decode (encode i) = .op i) ∧
  (∀ (w : OpWord) (i : Instr), decodeWord w = .op i → i.wellFormed = true ∧ encodeWord i = w) ∧
  (∀ (f : FieldId) (x : Field) (s : State), Field.ofId f = some x → x.width = 1 →
    exec (.set f) s = exec (.wri f 1) s ∧ exec (.clr f) s = exec (.wri f 0) s) ∧
  (∀ f g : FieldId, encodeWord (.set f) ≠ encodeWord (.wri g 1) ∧ encodeWord (.clr f) ≠ encodeWord (.wri g 0))

/-- R150: exactly the listed words are illegal; executing one records ILLOP and does nothing else; every unused address
of the standard image holds 0x0000. -/
def Obligations.IllegalWordsFault : Prop :=
  (∀ w : OpWord, (∃ why, decodeWord w = .illegal why) ↔
    ((opField w).toNat = 13 ∨ (opField w).toNat = 14 ∨ (opField w).toNat = 15 ∨
      ((opField w).toNat = 0 ∧ ((aField w).toNat ≠ 0 ∨ (bField w).toNat = 0 ∨ 4 < (bField w).toNat)) ∨
      (((opField w).toNat = 3 ∨ (opField w).toNat = 4 ∨ (opField w).toNat = 5 ∨ (opField w).toNat = 12) ∧
        (bField w).toNat ≠ 0) ∨
      (((opField w).toNat = 8 ∨ (opField w).toNat = 11) ∧ (aField w).toNat ≠ 0) ∨
      (((opField w).toNat = 9 ∨ (opField w).toNat = 10) ∧ 15 < (aField w).toNat))) ∧
  (∀ (s : State) (w : OpWord) (why : Illegal), sequencerTurn s = true → faulted s = false →
    interruptTakeable s = false → fetch s = wordBytes w → decodeWord w = .illegal why →
    step s = .next { s with agenda := s.agenda.tail, sys := { s.sys with fcause := 1 } }) ∧
  (∃ a b, decodeWord 0x0000 = .illegal a ∧ decodeWord 0xFFFF = .illegal b) ∧
  (∀ a : Addr, ((0x1C ≤ a.toNat ∧ a.toNat ≤ 0x1F) ∨ (0x32 ≤ a.toNat ∧ a.toNat ≤ 0x37) ∨ 0x3A ≤ a.toNat) →
    standardImage.bytesAt a = wordBytes 0x0000)

/-- R162: the worked encodings decode to the operations they stand for, and are their encodings. -/
def Obligations.WorkedEncodingsDecode : Prop :=
  ∀ p ∈ ([(0x7081, .wait 0x02 1), (0x12C6, .wri 0x0B 6), (0x2241, .wrp 0x09 1), (0x3840, .set 0x21),
    (0x48C0, .clr 0x23), (0x5DC0, .inc 0x37), (0x6EE4, .mov 0x3B 0x24), (0x802A, .jmp 0x2A), (0xA071, .btc 1 0x31),
    (0xB008, .spin 8), (0xCA40, .ldt 0x29)] : List (OpWord × Instr)),
    decode (wordBytes p.1) = .op p.2 ∧ encodeWord p.2 = p.1

/-! ### The sequencer's step -/

/-- R480: a sequencer that is not faulted and has no interrupt to take executes the operation that the word at `pc`
decodes to; the only other effect of the step is that the agenda's entry is used up (the model's own field, log 6). No
interrupt is to be taken exactly when `SYS.IE` = 0, or the tick is not pending and the converter's line is low (R380,
R471): `ADC.IRQEN` = 0 or both flags 0; in each of these cases the step executes the word at `pc`. -/
def Obligations.StepRunsDecodedOperation : Prop :=
  (∀ (s : State) (i : Instr), faulted s = false → interruptTakeable s = false → decode (fetch s) = .op i →
    (s.agenda = [] → step s = exec i s) ∧
    (∀ rest, s.agenda = .seq :: rest → step s = exec i { s with agenda := rest })) ∧
  (∀ s : State, interruptTakeable s = false ↔
    (s.sys.ie = 0 ∨ (s.sys.tickp = 0 ∧ (s.adc.irqen = 0 ∨ (s.adc.eoc = 0 ∧ s.adc.jeoc = 0))))) ∧
  (∀ (s : State) (i : Instr), sequencerTurn s = true → s.sys.fcause = 0 → decode (fetch s) = .op i →
    (s.sys.ie = 0 ∨ (s.sys.tickp = 0 ∧ (s.adc.irqen = 0 ∨ (s.adc.eoc = 0 ∧ s.adc.jeoc = 0)))) →
    step s = exec i { s with agenda := s.agenda.tail })

/-- A word loaded at `pc` from outside (log 2) is the word the next step runs, and no other word of the store changes
(R101, R104). -/
def Obligations.LoadedWordRuns : Prop :=
  ∀ (s : State) (w : OpWord), s.imem.wf = true →
    (s.imem.writeWord s.pc w).wf = true ∧
    (s.imem.writeWord s.pc w).bytesAt s.pc = wordBytes w ∧
    (∀ a : Addr, a ≠ s.pc → (s.imem.writeWord s.pc w).bytesAt a = s.imem.bytesAt a) ∧
    (faulted s = false → interruptTakeable s = false →
      step (s.withFetchWord 16 w.toNat) = runDecoded (decodeWord w) { s with imem := s.imem.writeWord s.pc w })

/-- R463: a step that records a fault changes no state but `SYS.FCAUSE`; the agenda and the count of draws, which move,
are the model's own fields (log 6, 7, 21). -/
def Obligations.FaultsArePrecise : Prop :=
  ∀ s t : State, step s = .next t → s.sys.fcause = 0 → t.sys.fcause ≠ 0 →
    sequencerTurn s = true ∧
    t = { s with sys := { s.sys with fcause := t.sys.fcause }, agenda := s.agenda.tail, draws := t.draws }

/-- R462, R38: once a cause is recorded it stays until reset and the sequencer has no step: no step but reset moves
`pc`, `T`, the interrupt state or a clock field that only operations write. Every other agent goes on: its scheduled
step happens, and it does what it does to the same state without the fault. With nothing scheduled the model stops
(log 14). -/
def Obligations.FaultedSequencerIsStuck : Prop :=
  (∀ s t : State, step s = .next t → s.sys.fcause ≠ 0 → resetTurn s = false →
    t.pc = s.pc ∧ t.sys = { s.sys with tickp := t.sys.tickp } ∧
    t.clk = { s.clk with sws := t.clk.sws, hsirdy := t.clk.hsirdy } ∧ (outputs t).faultOut = 1 ∧
    (sequencerTurn s = true → t = { s with agenda := s.agenda.tail })) ∧
  (∀ (s : State) (e : AgentStep) (rest : List AgentStep), s.agenda = e :: rest → e ≠ .seq →
    step s = agentStep e { s with agenda := rest } ∧
    ∃ t, step s = .next t ∧ step { s with sys := { s.sys with fcause := 0 } } =
      .next { t with sys := { t.sys with fcause := 0 } }) ∧
  (∀ s : State, s.sys.fcause ≠ 0 → s.agenda = [] → step s = .fault .sequencerStopped)

/-! ### Interrupts -/

/-- R481: interrupt entry, written out: what it saves, what the status becomes, where `pc` goes; nothing else is saved
or changed. It happens at a sequencer step whenever `SYS.IE` = 1 and a request is pending, whatever the word at `pc`. (The
agenda, whose entry is used up, is the model's own field, log 6.) -/
def Obligations.InterruptEntrySavesAndVectors : Prop :=
  ∀ s : State, sequencerTurn s = true → s.sys.fcause = 0 → s.sys.ie = 1 →
    (s.sys.tickp = 1 → step s = .next { s with
      pc := 0x38, sys := { s.sys with epc := s.pc, ie := 0, inh := 1, tickp := 0 }, agenda := s.agenda.tail }) ∧
    (s.sys.tickp = 0 → s.adc.irqen = 1 → (s.adc.eoc = 1 ∨ s.adc.jeoc = 1) → step s = .next { s with
      pc := 0x20, sys := { s.sys with epc := s.pc, ie := 0, inh := 1 }, agenda := s.agenda.tail })

/-- R475: with both requests pending the tick is taken first, the converter's request stays pending, and it is taken at
the first sequencer step after an `IRET` that finds no further tick request. -/
def Obligations.TickBeforeConverter : Prop :=
  (∀ s : State, sequencerTurn s = true → s.sys.fcause = 0 → s.sys.ie = 1 → s.sys.tickp = 1 → adcIrq s = true →
    ∃ t, step s = .next t ∧ t.pc = 0x38 ∧ t.sys.tickp = 0 ∧ t.sys.epc = s.pc ∧ adcIrq t = true) ∧
  (∀ s : State, sequencerTurn s = true → s.sys.fcause = 0 → s.sys.inh = 1 → s.sys.tickp = 0 → adcIrq s = true →
    ∃ t u, exec .iret s = .next t ∧ step t = .next u ∧ u.pc = 0x20 ∧ u.sys.epc = s.sys.epc ∧ u.sys.inh = 1)

/-- R243, R483: `IRET` in handler context restores `pc` from `SYS.EPC`, enables interrupts and leaves the handler
context, and nothing else (`T` is not restored); a request still pending is taken at the next step with the same saved
address; in main context it faults with BADCTX. -/
def Obligations.IretReturnsFromHandler : Prop :=
  (encodeWord .iret = 0x0003) ∧
  (∀ s : State, s.sys.inh = 1 →
    exec .iret s = .next { s with pc := s.sys.epc, sys := { s.sys with ie := 1, inh := 0 } }) ∧
  (∀ s : State, s.sys.inh = 0 → exec .iret s = .next { s with sys := { s.sys with fcause := 6 } }) ∧
  (∀ s : State, sequencerTurn s = true → s.sys.fcause = 0 → s.sys.inh = 1 → (s.sys.tickp = 1 ∨ adcIrq s = true) →
    ∃ t u, exec .iret s = .next t ∧ step t = .next u ∧ u.sys.epc = s.sys.epc ∧ u.sys.ie = 0 ∧ u.sys.inh = 1)

/-- R242: `EI` sets `SYS.IE` in main context and faults with BADCTX in handler context; if `SYS.IE` is 1 already it
changes only `pc`; a pending interrupt is taken before the operation that follows; no operation clears `SYS.IE`. -/
def Obligations.EiEnablesInMainContext : Prop :=
  (encodeWord .ei = 0x0004) ∧
  (∀ s : State, s.sys.inh = 0 → exec .ei s = .next { s with pc := s.pc + 1, sys := { s.sys with ie := 1 } }) ∧
  (∀ s : State, s.sys.inh = 0 → s.sys.ie = 1 → exec .ei s = .next { s with pc := s.pc + 1 }) ∧
  (∀ s : State, s.sys.inh = 1 → exec .ei s = .next { s with sys := { s.sys with fcause := 6 } }) ∧
  (∀ s : State, sequencerTurn s = true → s.sys.fcause = 0 → s.sys.inh = 0 → (s.sys.tickp = 1 ∨ adcIrq s = true) →
    ∃ t u, exec .ei s = .next t ∧ t.sys.inh = 0 ∧ step t = .next u ∧ u.sys.inh = 1 ∧ u.sys.epc = s.pc + 1 ∧
      u.pc = if s.sys.tickp = 1 then 0x38 else 0x20) ∧
  (∀ (i : Instr) (s t : State), exec i s = .next t → s.sys.ie = 1 → t.sys.ie = 1)

/-- R485: `SYS.IE` and `SYS.INH` are never both 1 (every step keeps it, from every state); both are 0 after reset and
stay so until an `EI` executes. -/
def Obligations.InterruptStateInvariant : Prop :=
  (∀ s t : State, ContextLegal s → step s = .next t → ContextLegal t) ∧
  (∀ src osc imem param, (State.launch src osc imem param).sys.ie = 0 ∧
    (State.launch src osc imem param).sys.inh = 0) ∧
  (∀ s t : State, s.sys.ie = 0 → s.sys.inh = 0 → step s = .next t → executes s ≠ some .ei →
    t.sys.ie = 0 ∧ t.sys.inh = 0)

/-- R36, R37, R472: `SYS.EPC` changes only by interrupt entry or reset; the tick's pending bit rises only by the
environment's tick and falls only by entry to the tick routine or reset. -/
def Obligations.SavedAddressAndTickPending : Prop :=
  (∀ s t : State, step s = .next t → t.sys.epc ≠ s.sys.epc →
    (takesInterrupt s = true ∧ t.sys.epc = s.pc) ∨ resetTurn s = true) ∧
  (∀ s t : State, step s = .next t → s.sys.tickp = 0 → t.sys.tickp = 1 → s.agenda.head? = some .envTick) ∧
  (∀ s t : State, step s = .next t → s.sys.tickp = 1 → t.sys.tickp = 0 →
    (takesInterrupt s = true ∧ t.pc = 0x38) ∨ resetTurn s = true)

/-- R474: the tick request is always enabled, also while the sequencer is faulted, parked or in a handler, and only
sets the pending bit; a second request is absorbed. -/
def Obligations.TickRequestsCoalesce : Prop :=
  ∀ (s : State) (rest : List AgentStep), s.agenda = .envTick :: rest →
    step s = .next { s with agenda := rest, sys := { s.sys with tickp := 1 } } ∧
    (s.sys.tickp = 1 → step s = .next { s with agenda := rest })

/-! ### Invariants of the whole machine -/

/-- Every step keeps every field within its legal values (R42, R51, R64, R70, R71, R461) and the store in its canonical
form (log 1), from every state. At the three `undefined` points this holds of the totalising alternative the model
takes, whose draws keep to the same limits (log 10, 11, 12). -/
def Obligations.LegalContentsKept : Prop :=
  ∀ s t : State, LegalState s → step s = .next t → LegalState t

/-- Reset leaves a legal state, for every clock status, straps and canonical store (R93, R94). -/
def Obligations.LaunchIsLegal : Prop :=
  (∀ src osc imem param, imem.wf = true →
    LegalState (State.launch src osc imem param) ∧ ContextLegal (State.launch src osc imem param) ∧
    ConverterLegal (State.launch src osc imem param)) ∧
  LegalState State.reset

/-- R342: the converter stays in one of its five states under every step that writes no gated field and reaches no
`undefined` point, so under every step that keeps the order an image must keep (R531; R113 lets a gated write of
`ADC.ADON` leave any content, log 17). -/
def Obligations.ConverterStatesKept : Prop :=
  (∀ s t : State, ConverterLegal s → writesGated s = false → reachesUndefined s = false → step s = .next t →
    ConverterLegal t) ∧
  ∀ s t : State, ConverterLegal s → keepsOrder s = true → step s = .next t → ConverterLegal t

/-- R10, R95, R101: no step writes the operation store or a strap, and each step uses up at most the agenda's head. -/
def Obligations.StoreAndStrapsConstant : Prop :=
  ∀ s t : State, step s = .next t → t.imem = s.imem ∧ t.param = s.param ∧ t.agenda = s.agenda.tail

/-- R32: `T` is written only by `LDT` (and by reset); in particular interrupt entry and return leave it alone. -/
def Obligations.LatchWrittenOnlyByLdt : Prop :=
  ∀ s t : State, step s = .next t → t.sys.latch ≠ s.sys.latch →
    (∃ f, executes s = some (.ldt f)) ∨ resetTurn s = true

/-- R225: control transfer is only the advance, `JMP`, `BTS` and `BTC`, the self-loops of `WAIT` and `HALT`, and `IRET`;
an operation that faults leaves `pc` at its own address; `HALT`, `JMP` and `IRET` never just advance. -/
def Obligations.ControlTransferIsOnlyThis : Prop :=
  ∀ (i : Instr) (s t : State), s.sys.fcause = 0 → exec i s = .next t →
    (t.sys.fcause ≠ 0 ∧ t.pc = s.pc) ∨
    (t.sys.fcause = 0 ∧
      ((t.pc = s.pc + 1 ∧ i ≠ .halt ∧ i ≠ .iret ∧ ∀ a, i ≠ .jmp a) ∨
        (t.pc = s.pc ∧ (i = .halt ∨ ∃ f k, i = .wait f k)) ∨
        (i = .jmp t.pc ∨ (∃ j, i = .bts j t.pc) ∨ (∃ j, i = .btc j t.pc)) ∨
        (i = .iret ∧ t.pc = s.sys.epc)))

/-! ### Clock fields and the environment's clock steps -/

/-- R271: `EnvSysclkInternal` sets `CLK.SWS` to 0, and no other step but reset changes `CLK.SWS`. -/
def Obligations.SystemClockMovesOnlyToInternal : Prop :=
  (∀ (s : State) (rest : List AgentStep), s.agenda = .envSysclkInternal :: rest →
    step s = .next { s with agenda := rest, clk := { s.clk with sws := 0 } }) ∧
  (∀ s t : State, step s = .next t → t.clk.sws ≠ s.clk.sws →
    (s.agenda.head? = some .envSysclkInternal ∧ t.clk.sws = 0) ∨ resetTurn s = true)

/-- R272: `EnvOscReady` raises the ready flag while the oscillator is enabled; nothing but it and reset raises the flag;
no step but reset clears it while `CLK.HSION` stays 1. -/
def Obligations.OscillatorReadyOnlyRises : Prop :=
  (∀ (s : State) (rest : List AgentStep), s.agenda = .envOscReady :: rest →
    (s.clk.hsion = 1 → step s = .next { s with agenda := rest, clk := { s.clk with hsirdy := 1 } }) ∧
    (s.clk.hsion = 0 → step s = .next { s with agenda := rest })) ∧
  (∀ s t : State, step s = .next t → resetTurn s = false → s.clk.hsirdy = 0 → t.clk.hsirdy = 1 →
    s.agenda.head? = some .envOscReady) ∧
  (∀ s t : State, step s = .next t → resetTurn s = false → s.clk.hsirdy = 1 → t.clk.hsirdy = 0 → t.clk.hsion = 0)

/-- R262: a write of `CLK.HSION` stores, and a 0 also drops the ready flag; writing 1 does not raise it, and writing 1
when it is 1 changes nothing but `pc`. -/
def Obligations.OscillatorEnableWrite : Prop :=
  (∀ (s : State) (v : BusWord), v.toNat < 2 → writeField .clkHsion v s =
    { s with clk := { s.clk with hsion := v.setWidth 1, hsirdy := if v = 0 then 0 else s.clk.hsirdy } }) ∧
  (∀ s : State, exec (.clr 0x01) s =
    .next { s with pc := s.pc + 1, clk := { s.clk with hsion := 0, hsirdy := 0 } }) ∧
  (∀ s : State, exec (.set 0x01) s = .next { s with pc := s.pc + 1, clk := { s.clk with hsion := 1 } }) ∧
  (∀ s : State, s.clk.hsion = 1 → exec (.set 0x01) s = .next { s with pc := s.pc + 1 })

/-- R263, R265: a gate bit is set while the clock is stable, and cleared at any time, with no other effect: the gated
group keeps its contents. Writing 1 to a bit that is 1 only stores, whatever the clock (log 13). -/
def Obligations.GateBitWrites : Prop :=
  (∀ s : State, (clkStable s.clk = true ∨ s.clk.timen = 1) →
    exec (.set 0x04) s = .next { s with pc := s.pc + 1, clk := { s.clk with timen := 1 } }) ∧
  (∀ s : State, (clkStable s.clk = true ∨ s.clk.adcen = 1) →
    exec (.set 0x05) s = .next { s with pc := s.pc + 1, clk := { s.clk with adcen := 1 } }) ∧
  (∀ s : State, exec (.clr 0x04) s = .next { s with pc := s.pc + 1, clk := { s.clk with timen := 0 } }) ∧
  (∀ s : State, exec (.clr 0x05) s = .next { s with pc := s.pc + 1, clk := { s.clk with adcen := 0 } })

/-- R273: once the clock is stable it stays stable, as long as no operation writes 0 to `CLK.HSION` and there is no
reset. -/
def Obligations.StableClockStaysStable : Prop :=
  ∀ s t : State, step s = .next t → clkStable s.clk = true → resetTurn s = false →
    (executes s).bind (fun i => writes i s) ≠ some (.clkHsion, 0) → clkStable t.clk = true

/-! ### Field accesses by operations -/

/-- R180 to R184, R202: for every assigned, writable field and every legal value, each writing operation answers a next
state: the field's write rule is applied and `pc` advances. `INC` writes the value read plus one modulo the width;
`MOV` reads with the read's side effect and writes in one step. (The write rules themselves are the statements on each
field. That the write goes on at the three `undefined` points too is the model's choice, log 10, 11, 12.) -/
def Obligations.FieldWriteOperationsComplete : Prop :=
  ∀ (s : State) (f : FieldId) (x : Field), Field.ofId f = some x → x.writable = true →
    (∀ k : BitVec 6, x.legal (k.setWidth 32) = true →
      exec (.wri f k) s = .next { writeField x (k.setWidth 32) s with pc := s.pc + 1 }) ∧
    (∀ (p : StrapId) (h : p.toNat < 9), x.legal ((s.param[p.toNat]'h).setWidth 32) = true →
      exec (.wrp f p) s = .next { writeField x ((s.param[p.toNat]'h).setWidth 32) s with pc := s.pc + 1 }) ∧
    (x.width = 1 → exec (.set f) s = .next { writeField x 1 s with pc := s.pc + 1 } ∧
      exec (.clr f) s = .next { writeField x 0 s with pc := s.pc + 1 }) ∧
    (x.cls ≠ .cmd → x.cls ≠ .flag → gated x s = false →
      x.legal (BitVec.ofNat 32 (((value x s).toNat + 1) % 2 ^ x.width)) = true →
      exec (.inc f) s =
        .next { writeField x (BitVec.ofNat 32 (((value x s).toNat + 1) % 2 ^ x.width)) s with pc := s.pc + 1 }) ∧
    (∀ (g : FieldId) (y : Field), Field.ofId g = some y → gated y s = false → x.legal (value y s) = true →
      exec (.mov f g) s = .next { writeField x (value y s) (readEffect y s) with pc := s.pc + 1 })

/-- R112: a write of a legal value to an ungated plain field stores it; every other field, the hidden state and the
run's parameters keep their contents. -/
def Obligations.PlainWriteStoresAndKeepsOthers : Prop :=
  ∀ (x : Field) (v : BusWord) (s : State), x.plain = true → x.legal v = true → gated x s = false →
    value x (writeField x v s) = v ∧ (writeField x v s).pc = s.pc ∧ OthersKept x s (writeField x v s)

/-- The frame of every field write that is not at an `undefined` point: a write reaches its own group only; a timer
write may besides start a conversion through the trigger wiring (R311, R365), and never more of the converter. -/
def Obligations.WritesReachOnlyTheirGroup : Prop :=
  ∀ (x : Field) (v : BusWord) (s : State), x.writable = true → x.legal v = true → undefinedWrite x v s = false →
    (writeField x v s).pc = s.pc ∧ (writeField x v s).sys = s.sys ∧ RunKept s (writeField x v s) ∧
    (x.group ≠ .clk → (writeField x v s).clk = s.clk) ∧
    (x.group ≠ .tim → (writeField x v s).tim = s.tim) ∧
    (x.group ≠ .sh → (writeField x v s).sh = s.sh) ∧
    (x.group = .tim → (writeField x v s).adc = s.adc ∨
      (writeField x v s).adc = { s.adc with busy := 1, convCh := s.adc.sq1, convBank := s.adc.bank }) ∧
    (x.group ≠ .tim → x.group ≠ .adc → (writeField x v s).adc = s.adc)

/-- R110, R111: a read of a gated field gives some value of the field's width, has no side effect and changes nothing
(but the model's count of draws, log 7); `LDT`, `INC` and `MOV` go on with that value, `INC` and `MOV` checking it. (That
a `MOV` whose write is at an `undefined` point goes on too is the model's choice, log 10, 11, 12.) -/
def Obligations.GatedReadIsAnyValue : Prop :=
  ∀ (y : Field) (s : State), gated y s = true → ∃ v : BusWord, v.toNat < 2 ^ y.width ∧
    peek y s = (v, { s with draws := s.draws + 1 }) ∧ readEffect y s = s ∧
    ∀ g, Field.ofId g = some y →
      exec (.ldt g) s =
        .next { s with pc := s.pc + 1, draws := s.draws + 1, sys := { s.sys with latch := v.setWidth 16 } } ∧
      ((y.cls = .rw ∨ y.cls = .rwA) → exec (.inc g) s =
        if y.legal (BitVec.ofNat 32 ((v.toNat + 1) % 2 ^ y.width)) = true then
          .next { writeField y (BitVec.ofNat 32 ((v.toNat + 1) % 2 ^ y.width)) { s with draws := s.draws + 1 } with
            pc := s.pc + 1 }
        else .next { s with draws := s.draws + 1, sys := { s.sys with fcause := 5 } }) ∧
      (∀ (f : FieldId) (x : Field), Field.ofId f = some x → x.writable = true → exec (.mov f g) s =
        if x.legal v = true then
          .next { writeField x v { s with draws := s.draws + 1 } with pc := s.pc + 1 }
        else .next { s with draws := s.draws + 1, sys := { s.sys with fcause := 5 } })

/-- R113: a write to a gated field raises no fault and performs no command; a stored field's content becomes some legal
value; every other field and all hidden state keep their contents. Written out for the fields from whose content another
is computed: the two flags (`ADC.SR`), `ADC.SMPX` (one cell of `SMP`), and `TIM.OC1M`, whose change may move the output
and is followed by the edge evaluation (R311; `EdgeStartsConversion` says what that does). The count of draws is the
model's own field (log 7). -/
def Obligations.GatedWriteIsAnyLegalValue : Prop :=
  ∀ (x : Field) (v : BusWord) (s : State), gated x s = true → x.writable = true →
    (x.cls = .cmd → writeField x v s = s) ∧
    (x.cls ≠ .cmd → ∃ u, x.legal u = true ∧ value x (writeField x v s) = u ∧
      writeField x v s = { storeField x u s with draws := s.draws + 1 }) ∧
    ((writeField x v s).pc = s.pc ∧ RunKept s (writeField x v s)) ∧
    (x ≠ .timOc1m → x ≠ .adcSmpx → x ≠ .adcEoc → x ≠ .adcJeoc →
      OthersKept x s { writeField x v s with draws := s.draws }) ∧
    (x = .adcEoc → ∃ b : Bit, writeField x v s = { s with adc := { s.adc with eoc := b }, draws := s.draws + 1 }) ∧
    (x = .adcJeoc → ∃ b : Bit, writeField x v s = { s with adc := { s.adc with jeoc := b }, draws := s.draws + 1 }) ∧
    (x = .adcSmpx →
      writeField x v s = { s with adc := { s.adc with smp := (writeField x v s).adc.smp }, draws := s.draws + 1 } ∧
      ∀ j : Fin 32, j.val ≠ s.adc.sq1.toNat → (writeField x v s).adc.smp[j] = s.adc.smp[j]) ∧
    (x = .timOc1m → ∃ m : BitVec 3, (m = 0 ∨ m = 6) ∧
      writeField x v s = { putTim { s.tim with oc1m := m } s with draws := s.draws + 1 }) ∧
    (writeField x v s).tim.cnt = s.tim.cnt ∧ (writeField x v s).tim.pscA = s.tim.pscA ∧
    (writeField x v s).tim.arrA = s.tim.arrA ∧ (writeField x v s).tim.ccrA = s.tim.ccrA ∧
    (writeField x v s).tim.pscCnt = s.tim.pscCnt

/-- R41, R461: exactly the listed ids are unassigned, and every operation with an unassigned field operand faults with
BADFIELD (cause 2), `WRP` whatever its strap index. -/
def Obligations.UnassignedFieldFaults : Prop :=
  ∀ f : FieldId,
    (Field.ofId f = none ↔ (f.toNat = 0x06 ∨ f.toNat = 0x07 ∨ (0x12 ≤ f.toNat ∧ f.toNat ≤ 0x17) ∨
      (0x2D ≤ f.toNat ∧ f.toNat ≤ 0x2F))) ∧
    (Field.ofId f = none → ∀ s : State,
      (∀ i ∈ ([.set f, .clr f, .inc f, .ldt f] : List Instr),
        exec i s = .next { s with sys := { s.sys with fcause := 2 } }) ∧
      (∀ k : BitVec 6, exec (.wri f k) s = .next { s with sys := { s.sys with fcause := 2 } } ∧
        exec (.wrp f k) s = .next { s with sys := { s.sys with fcause := 2 } } ∧
        exec (.wait f k) s = .next { s with sys := { s.sys with fcause := 2 } } ∧
        exec (.mov f k) s = .next { s with sys := { s.sys with fcause := 2 } } ∧
        exec (.mov k f) s = .next { s with sys := { s.sys with fcause := 2 } }))

/-- R185, R464: past BADFIELD the checks run in the order BADPARAM, BADACCESS, BADVALUE; the value checked is the one
that would be written, after zero-extension and after the increment. (That a write which passes them goes on at the
three `undefined` points too is the model's choice, log 10, 11, 12.) -/
def Obligations.ChecksRunInOrder : Prop :=
  ∀ (s : State) (f : FieldId) (x : Field), Field.ofId f = some x →
    (∀ k : BitVec 6, exec (.wri f k) s =
      if x.writable = false then .next { s with sys := { s.sys with fcause := 4 } }
      else if x.legal (k.setWidth 32) = false then .next { s with sys := { s.sys with fcause := 5 } }
      else .next { writeField x (k.setWidth 32) s with pc := s.pc + 1 }) ∧
    (∀ p : StrapId, exec (.wrp f p) s =
      if h : p.toNat < 9 then
        if x.writable = false then .next { s with sys := { s.sys with fcause := 4 } }
        else if x.legal ((s.param[p.toNat]'h).setWidth 32) = false then
          .next { s with sys := { s.sys with fcause := 5 } }
        else .next { writeField x ((s.param[p.toNat]'h).setWidth 32) s with pc := s.pc + 1 }
      else .next { s with sys := { s.sys with fcause := 3 } }) ∧
    ((x.writable = false ∨ x.width ≠ 1) →
      exec (.set f) s = .next { s with sys := { s.sys with fcause := 4 } } ∧
      exec (.clr f) s = .next { s with sys := { s.sys with fcause := 4 } }) ∧
    ((x.cls ≠ .rw ∧ x.cls ≠ .rwA) → exec (.inc f) s = .next { s with sys := { s.sys with fcause := 4 } }) ∧
    ((x.cls = .rw ∨ x.cls = .rwA) → gated x s = false →
      x.legal (BitVec.ofNat 32 (((value x s).toNat + 1) % 2 ^ x.width)) = false →
      exec (.inc f) s = .next { s with sys := { s.sys with fcause := 5 } }) ∧
    (∀ (g : FieldId) (y : Field), Field.ofId g = some y →
      (x.writable = false → exec (.mov f g) s = .next { s with sys := { s.sys with fcause := 4 } }) ∧
      (x.writable = true → gated y s = false → x.legal (value y s) = false →
        exec (.mov f g) s = .next { s with sys := { s.sys with fcause := 5 } }))

/-- R184, R79: `INC SH.MS` adds one modulo 2^32 and nothing else but `pc`; `INC` of `SH.BG` or `SH.TC` toggles it and
nothing else; `INC` of any ungated 1-bit field of class RW or RW-A writes the opposite bit to it (outside the
`undefined` points); `INC TIM.OC1M` from 0 faults with BADVALUE. -/
def Obligations.IncrementWraps : Prop :=
  (∀ s : State, exec (.inc 0x37) s = .next { s with pc := s.pc + 1, sh := { s.sh with ms := s.sh.ms + 1 } }) ∧
  (∀ s : State, exec (.inc 0x38) s =
    .next { s with pc := s.pc + 1, sh := { s.sh with bg := if s.sh.bg = 0 then 1 else 0 } }) ∧
  (∀ s : State, exec (.inc 0x39) s =
    .next { s with pc := s.pc + 1, sh := { s.sh with tc := if s.sh.tc = 0 then 1 else 0 } }) ∧
  (∀ (s : State) (f : FieldId) (x : Field), Field.ofId f = some x → x.width = 1 → (x.cls = .rw ∨ x.cls = .rwA) →
    gated x s = false → undefinedWrite x (if value x s = 0 then 1 else 0) s = false →
    exec (.inc f) s = .next { writeField x (if value x s = 0 then 1 else 0) s with pc := s.pc + 1 }) ∧
  (∀ s : State, s.clk.timen = 1 → s.tim.oc1m = 0 →
    exec (.inc 0x0B) s = .next { s with sys := { s.sys with fcause := 5 } })

/-- R201: `LDT f` of every assigned, ungated field: `T` is the field zero-extended or truncated to 16 bits; reading
`ADC.DR` clears `ADC.EOC`; nothing else changes but `pc`. R72: the status word `ADC.SR` is, from bit 0 up, `ADC.EOC`,
`ADC.JEOC`, `ADC.ADONS`, `ADC.ARMED`, `ADC.BUSY`, and 0 above; `LDT ADC.SR` loads it whole. -/
def Obligations.LdtLoadsLatch : Prop :=
  (∀ (s : State) (f : FieldId) (x : Field), Field.ofId f = some x → gated x s = false →
    exec (.ldt f) s = .next { s with
      pc := s.pc + 1
      sys := { s.sys with latch := (value x s).setWidth 16 }
      adc := { s.adc with eoc := if x = .adcDr then 0 else s.adc.eoc } }) ∧
  (∀ s : State, (value .adcSr s).toNat = s.adc.eoc.toNat + 2 * s.adc.jeoc.toNat + 4 * s.adc.adons.toNat +
    8 * s.adc.armed.toNat + 16 * s.adc.busy.toNat) ∧
  (∀ s : State, s.clk.adcen = 1 → ∃ w : BitVec 16,
    exec (.ldt 0x29) s = .next { s with pc := s.pc + 1, sys := { s.sys with latch := w } } ∧
    w.getLsbD 0 = decide (s.adc.eoc = 1) ∧ w.getLsbD 1 = decide (s.adc.jeoc = 1) ∧
    w.getLsbD 2 = decide (s.adc.adons = 1) ∧ w.getLsbD 3 = decide (s.adc.armed = 1) ∧
    w.getLsbD 4 = decide (s.adc.busy = 1) ∧ ∀ n, 5 ≤ n → w.getLsbD n = false)

/-- R202, R106, R379: `MOV SH.REGRES, ADC.DR` stores the result and clears the flag in one step; `MOV SH.INJRES1,
ADC.JDR1` leaves the injected flag alone; a `MOV` that faults with BADVALUE has not cleared the flag; `MOV f, f` on a
plain field only advances. On `TIM.ARR` and `TIM.CCR1` it reloads the active register while the preload enable is 0 (the
model's choice between two sentences of R202, log 26). -/
def Obligations.MovTransfersResult : Prop :=
  (∀ s : State, s.clk.adcen = 1 → exec (.mov 0x3B 0x24) s = .next { s with
    pc := s.pc + 1, sh := { s.sh with regres := s.adc.dr }, adc := { s.adc with eoc := 0 } }) ∧
  (∀ s : State, s.clk.adcen = 1 → exec (.mov 0x3C 0x25) s = .next { s with
    pc := s.pc + 1, sh := { s.sh with injres1 := s.adc.jdr1 } }) ∧
  (∀ s : State, s.clk.adcen = 1 → 1 < s.adc.dr.toNat →
    exec (.mov 0x38 0x24) s = .next { s with sys := { s.sys with fcause := 5 } }) ∧
  (∀ (s : State) (f : FieldId) (x : Field), Field.ofId f = some x → x.plain = true → gated x s = false →
    x.legal (value x s) = true → exec (.mov f f) s = .next { s with pc := s.pc + 1 }) ∧
  (∀ s : State, s.clk.timen = 1 →
    exec (.mov 0x09 0x09) s = .next { s with
      pc := s.pc + 1, tim := { s.tim with arrA := if s.tim.arpe = 0 then s.tim.arr else s.tim.arrA } } ∧
    exec (.mov 0x0A 0x0A) s = .next { putTim
      { s.tim with ccrA := if s.tim.oc1pe = 0 then s.tim.ccr1 else s.tim.ccrA } s with pc := s.pc + 1 })

/-- R220: one execution of `WAIT f, k` is one poll: `pc` advances exactly when the field holds the immediate, and stays
otherwise; the poll of `ADC.DR` clears `ADC.EOC`; nothing else changes. Of a gated field the value polled is any value of
the field's width (R110, log 8), and `pc` advances exactly when it is the immediate: an immediate that does not fit the
width never passes. -/
def Obligations.WaitPollsOnce : Prop :=
  (∀ (s : State) (f : FieldId) (x : Field) (k : BitVec 6), Field.ofId f = some x → gated x s = false →
    exec (.wait f k) s = .next { s with
      pc := if value x s = k.setWidth 32 then s.pc + 1 else s.pc
      adc := { s.adc with eoc := if x = .adcDr then 0 else s.adc.eoc } }) ∧
  (∀ (s : State) (f : FieldId) (x : Field) (k : BitVec 6), Field.ofId f = some x → gated x s = true →
    ∃ v : BusWord, v.toNat < 2 ^ x.width ∧ (peek x s).1 = v ∧
      exec (.wait f k) s =
        .next { s with pc := if v = k.setWidth 32 then s.pc + 1 else s.pc, draws := s.draws + 1 }) ∧
  (∀ (s : State) (f : FieldId) (x : Field) (k : BitVec 6), Field.ofId f = some x → 2 ^ x.width ≤ k.toNat →
    ∃ t, exec (.wait f k) s = .next t ∧ t.pc = s.pc)

/-! ### Control and system operations -/

/-- R221, R222, R223: `JMP` goes to its target; `BTS` and `BTC` go to theirs when the bit of `T` is set or clear and
advance otherwise; nothing but `pc` changes. A bit index above 15 is an illegal operation (R150, log 20). -/
def Obligations.JumpsAndBranches : Prop :=
  (∀ (s : State) (t : Addr), exec (.jmp t) s = .next { s with pc := t }) ∧
  (∀ (s : State) (i : BitVec 6) (t : Addr), i.toNat ≤ 15 →
    (s.sys.latch.toNat.testBit i.toNat = true →
      exec (.bts i t) s = .next { s with pc := t } ∧ exec (.btc i t) s = .next { s with pc := s.pc + 1 }) ∧
    (s.sys.latch.toNat.testBit i.toNat = false →
      exec (.bts i t) s = .next { s with pc := s.pc + 1 } ∧ exec (.btc i t) s = .next { s with pc := t })) ∧
  (∀ (s : State) (i : BitVec 6) (t : Addr), 15 < i.toNat →
    exec (.bts i t) s = .next { s with sys := { s.sys with fcause := 1 } } ∧
    exec (.btc i t) s = .next { s with sys := { s.sys with fcause := 1 } })

/-- R224: `SPIN p` checks its index and only advances, whatever the strap holds; an index above 8 faults with
BADPARAM. -/
def Obligations.SpinOnlyAdvances : Prop :=
  ∀ (s : State) (p : StrapId),
    (p.toNat ≤ 8 → exec (.spin p) s = .next { s with pc := s.pc + 1 }) ∧
    (8 < p.toNat → exec (.spin p) s = .next { s with sys := { s.sys with fcause := 3 } })

/-- R240: `NOP` is the word 0x0001, the all-zero word is not it, and it only advances `pc`, which wraps from 63 to 0
(R33). -/
def Obligations.NopOnlyAdvances : Prop :=
  encodeWord .nop = 0x0001 ∧ (∃ why, decodeWord 0x0000 = .illegal why) ∧
  (∀ s : State, exec .nop s = .next { s with pc := s.pc + 1 }) ∧
  (∀ (s t : State), exec .nop s = .next t → t.pc.toNat = (s.pc.toNat + 1) % 64)

/-- R241, R541: `HALT` changes nothing at all, so a sequencer step in a quiescent state changes nothing (but the agenda,
the model's own field, log 6); an interrupt taken at a `HALT` saves the `HALT`'s own address. -/
def Obligations.HaltParks : Prop :=
  encodeWord .halt = 0x0002 ∧
  (∀ s : State, exec .halt s = .next s) ∧
  (∀ s : State, sequencerTurn s = true → quiescent s = true → step s = .next { s with agenda := s.agenda.tail }) ∧
  (∀ s : State, sequencerTurn s = true → faulted s = false → decode (fetch s) = .op .halt →
    interruptTakeable s = true → ∃ t, step s = .next t ∧ t.sys.epc = s.pc)

/-! ### The trigger timer and its wiring -/

/-- R292, R293: a write of `TIM.PSC` never touches the active prescaler; a write of `TIM.ARR` reaches the active period at
once exactly while `TIM.ARPE` is 0; so does `WRP` to either, which besides only advances `pc`. -/
def Obligations.TimerPreloadWrites : Prop :=
  (∀ (s : State) (v : BitVec 16), s.clk.timen = 1 →
    writeField .timPsc (v.setWidth 32) s = { s with tim := { s.tim with psc := v } } ∧
    writeField .timArr (v.setWidth 32) s =
      { s with tim := { s.tim with arr := v, arrA := if s.tim.arpe = 0 then v else s.tim.arrA } }) ∧
  ∀ (s : State) (p : StrapId) (h : p.toNat < 9), s.clk.timen = 1 →
    exec (.wrp 0x08 p) s = .next { s with pc := s.pc + 1, tim := { s.tim with psc := s.param[p.toNat]'h } } ∧
    (s.tim.arpe = 0 → exec (.wrp 0x09 p) s = .next { s with
      pc := s.pc + 1, tim := { s.tim with arr := s.param[p.toNat]'h, arrA := s.param[p.toNat]'h } }) ∧
    (s.tim.arpe = 1 → exec (.wrp 0x09 p) s = .next { s with
      pc := s.pc + 1, tim := { s.tim with arr := s.param[p.toNat]'h } })

/-- R310: the output, as a port and as `TIM.OC1REF`, is high exactly in PWM mode 1 with the counter below the active
compare value, so low in frozen mode. R294, R295, R298, R304: what a write of `TIM.CCR1`, `TIM.OC1M` or `TIM.UG` leaves
in the timer; the edge evaluation follows, with the conversion it may start (`EdgeStartsConversion` says which). -/
def Obligations.OutputMovingWrites : Prop :=
  (∀ s : State,
    value .timOc1ref s = (if s.tim.oc1m = 6 ∧ s.tim.cnt.toNat < s.tim.ccrA.toNat then 1 else 0) ∧
    (outputs s).oc1Out = oc1ref s.tim ∧ value .timOc1ref s = (oc1ref s.tim).setWidth 32 ∧
    (s.tim.oc1m = 0 → oc1ref s.tim = 0 ∧ value .timOc1ref s = 0)) ∧
  ∀ s : State, s.clk.timen = 1 →
    (∀ v : BusWord, (writeField .timCcr1 v s).tim =
      { s.tim with ccr1 := v.setWidth 16, ccrA := if s.tim.oc1pe = 0 then v.setWidth 16 else s.tim.ccrA }) ∧
    (∀ v : BusWord, (writeField .timOc1m v s).tim = { s.tim with oc1m := v.setWidth 3 }) ∧
    (s.tim.oc1pe = 1 → s.tim.arpe = 1 → (writeField .timUg 1 s).tim =
      { s.tim with pscA := s.tim.psc, arrA := s.tim.arr, ccrA := s.tim.ccr1, cnt := 0, pscCnt := 0 }) ∧
    writeField .timUg 0 s = s ∧
    (∀ (x : Field) (v : BusWord), (x = .timCcr1 ∨ x = .timOc1m ∨ (x = .timUg ∧ s.tim.oc1pe = 1 ∧ s.tim.arpe = 1)) →
      writeField x v s = putTim (writeField x v s).tim s)

/-- R365, R366: when the timer's output moves inside a step, the pulse is accepted exactly under R365's condition, and
then the converter is busy with the channel and bank latched and nothing else changed; otherwise it is dropped without
a trace. -/
def Obligations.EdgeStartsConversion : Prop :=
  ∀ (s : State) (t : Tim),
    (startsConversion (oc1ref s.tim) (oc1ref t) s → putTim t s =
      { s with tim := t, adc := { s.adc with busy := 1, convCh := s.adc.sq1, convBank := s.adc.bank } }) ∧
    (¬ startsConversion (oc1ref s.tim) (oc1ref t) s → putTim t s = { s with tim := t })

/-- R300, R301: one tick of the timer, from every state: not enabled, it changes nothing; else the prescaler counter
rises to the active prescaler, and the tick after that resets it and steps the counter: blocked at period 0, an update
event at the period's end, else one up. That the period is `ARR_A` steps, so `ARR_OFFSET` = 0, is the model's choice
among the spec's two values (log 15). -/
def Obligations.TimerTickCounts : Prop :=
  (∀ (s : State) (rest : List AgentStep), s.agenda = .timerTick :: rest →
    (¬(s.clk.timen = 1 ∧ s.tim.cen = 1) → step s = .next { s with agenda := rest }) ∧
    (s.clk.timen = 1 → s.tim.cen = 1 → step s = .next (putTim (tickTim s.tim) { s with agenda := rest }))) ∧
  (∀ t : Tim,
    (t.pscCnt.toNat < t.pscA.toNat → tickTim t = { t with pscCnt := t.pscCnt + 1 }) ∧
    (t.pscA.toNat ≤ t.pscCnt.toNat → t.arrA = 0 → tickTim t = { t with pscCnt := 0 }) ∧
    (t.pscA.toNat ≤ t.pscCnt.toNat → t.arrA ≠ 0 → t.arrA.toNat ≤ t.cnt.toNat + 1 → tickTim t =
      { t with pscA := t.psc, arrA := t.arr, ccrA := t.ccr1, cnt := 0, pscCnt := 0 }) ∧
    (t.pscA.toNat ≤ t.pscCnt.toNat → t.arrA ≠ 0 → t.cnt.toNat + 1 < t.arrA.toNat → tickTim t =
      { t with cnt := t.cnt + 1, pscCnt := 0 }))

/-- R305: after an update event the next `PSC_A` ticks raise the prescaler counter to `PSC_A` and the tick after that
resets it and steps the counter; so with constant active values the counter's value after `n` ticks is `n / (PSC_A + 1)`
modulo the period `P`, and one period is `P * (PSC_A + 1)` ticks. That `P` = `ARR_A`, so `ARR_OFFSET` = 0, is the model's
choice among the spec's two values (log 15); the clause on the prescaler does not rest on it. -/
def Obligations.PrescalerDividesTicks : Prop :=
  (∀ t : Tim, t.pscCnt = 0 →
    (∀ k : Nat, k ≤ t.pscA.toNat → tickTim^[k] t = { t with pscCnt := BitVec.ofNat 16 k }) ∧
    tickTim^[t.pscA.toNat + 1] t = counterStep t) ∧
  (∀ (t : Tim) (n : Nat), t.pscCnt = 0 → t.cnt = 0 → t.psc = t.pscA → t.arr = t.arrA → t.ccr1 = t.ccrA → t.arrA ≠ 0 →
    (tickTim^[n] t).cnt.toNat = n / (t.pscA.toNat + 1) % t.arrA.toNat ∧
    (tickTim^[n] t).pscCnt.toNat = n % (t.pscA.toNat + 1)) ∧
  (∀ t : Tim, t.pscCnt = 0 → t.cnt = 0 → t.psc = t.pscA → t.arr = t.arrA → t.ccr1 = t.ccrA → t.arrA ≠ 0 →
    tickTim^[t.arrA.toNat * (t.pscA.toNat + 1)] t = t)

/-- R312, R561: for a running timer with constant active values in PWM mode 1, counted from a period's start. If
`0 < CCR_A < P`: the output falls exactly at the ticks that make the counter `CCR_A` and rises exactly at the ticks that
wrap it, so once each per period, and two rising edges are `(PSC_A + 1) * P` ticks apart. If `CCR_A >= P`, or
`CCR_A = 0`, or `P = 0`, there is no edge. That `P` = `ARR_A`, so `ARR_OFFSET` = 0, is the model's choice among the spec's
two values (log 15). -/
def Obligations.OneTriggerEdgePerPeriod : Prop :=
  ∀ (t : Tim) (n : Nat), t.oc1m = 6 → t.pscCnt = 0 → t.cnt = 0 → t.psc = t.pscA → t.arr = t.arrA → t.ccr1 = t.ccrA →
    (0 < t.ccrA.toNat → t.ccrA.toNat < t.arrA.toNat →
      ((oc1ref (tickTim^[n] t) = 1 ∧ oc1ref (tickTim^[n + 1] t) = 0) ↔
        (n + 1) % (t.arrA.toNat * (t.pscA.toNat + 1)) = t.ccrA.toNat * (t.pscA.toNat + 1)) ∧
      ((oc1ref (tickTim^[n] t) = 0 ∧ oc1ref (tickTim^[n + 1] t) = 1) ↔
        (n + 1) % (t.arrA.toNat * (t.pscA.toNat + 1)) = 0)) ∧
    (t.arrA.toNat ≤ t.ccrA.toNat → t.arrA ≠ 0 → oc1ref (tickTim^[n] t) = 1) ∧
    (t.ccrA = 0 → oc1ref (tickTim^[n] t) = 0) ∧
    (t.arrA = 0 → oc1ref (tickTim^[n] t) = oc1ref t)

/-! ### The converter -/

/-- R360: `AdcReady` raises the ready bit exactly while the converter is clocked, enabled and not ready; nothing else
does (a step at an `undefined` point apart, which has no outcome in the spec; log 10). R361: with the same exception the
bit falls only by reset or by an ungated write of 0 to `ADC.ADON`; clearing the gate keeps it. -/
def Obligations.ReadyOnlyByConverter : Prop :=
  (∀ (s : State) (rest : List AgentStep), s.agenda = .adcReady :: rest →
    (s.clk.adcen = 1 → s.adc.adon = 1 → s.adc.adons = 0 →
      step s = .next { s with agenda := rest, adc := { s.adc with adons := 1 } }) ∧
    (¬(s.clk.adcen = 1 ∧ s.adc.adon = 1 ∧ s.adc.adons = 0) → step s = .next { s with agenda := rest })) ∧
  (∀ s t : State, step s = .next t → reachesUndefined s = false → s.adc.adons = 0 → t.adc.adons = 1 →
    s.agenda.head? = some .adcReady) ∧
  (∀ s t : State, step s = .next t → reachesUndefined s = false → resetTurn s = false →
    s.adc.adons = 1 → t.adc.adons = 0 →
    (executes s).bind (fun i => writes i s) = some (.adcAdon, 0) ∧ s.clk.adcen = 1 ∧ t.adc.adon = 0) ∧
  (∀ s t : State, step s = .next t → executes s = some (.clr 0x05) → t.clk.adcen = 0 ∧ t.adc.adons = s.adc.adons)

/-- R372, R373: `AdcComplete(v)` delivers `v` right-aligned, sets the flag and drops busy; in single-shot mode it also
disarms; it happens only while busy and clocked. -/
def Obligations.CompletionDeliversResult : Prop :=
  ∀ (s : State) (rest : List AgentStep) (v : Sample), s.agenda = .adcComplete v :: rest →
    (s.clk.adcen = 1 → s.adc.busy = 1 → s.adc.cont = 0 → step s = .next { s with
      agenda := rest, adc := { s.adc with dr := v.setWidth 16, eoc := 1, busy := 0, armed := 0 } }) ∧
    (s.clk.adcen = 1 → s.adc.busy = 1 → s.adc.cont = 1 → step s = .next { s with
      agenda := rest, adc := { s.adc with dr := v.setWidth 16, eoc := 1, busy := 0 } }) ∧
    (¬(s.clk.adcen = 1 ∧ s.adc.busy = 1) → step s = .next { s with agenda := rest })

/-- R378: `EnvInjected` loads the four registers and sets the group's one flag, and touches nothing else; it happens only
while the converter is clocked, enabled and ready. -/
def Obligations.InjectedResultsArrive : Prop :=
  ∀ (s : State) (rest : List AgentStep) (a b c d : Sample), s.agenda = .envInjected a b c d :: rest →
    (s.clk.adcen = 1 → s.adc.adon = 1 → s.adc.adons = 1 → step s = .next { s with agenda := rest, adc := { s.adc with
      jdr1 := a.setWidth 16, jdr2 := b.setWidth 16, jdr3 := c.setWidth 16, jdr4 := d.setWidth 16, jeoc := 1 } }) ∧
    (¬(s.clk.adcen = 1 ∧ s.adc.adon = 1 ∧ s.adc.adons = 1) → step s = .next { s with agenda := rest })

/-- R341: setting `ADC.ADON` only stores; clearing it also drops ready, armed and busy, and keeps the flags, the data
registers, the latched channel and every configuration field. -/
def Obligations.ConverterEnableWrite : Prop :=
  ∀ s : State, s.clk.adcen = 1 →
    writeField .adcAdon 1 s = { s with adc := { s.adc with adon := 1 } } ∧
    writeField .adcAdon 0 s = { s with adc := { s.adc with adon := 0, adons := 0, armed := 0, busy := 0 } } ∧
    exec (.set 0x18) s = .next { s with pc := s.pc + 1, adc := { s.adc with adon := 1 } } ∧
    exec (.clr 0x18) s = .next { s with
      pc := s.pc + 1, adc := { s.adc with adon := 0, adons := 0, armed := 0, busy := 0 } }

/-- R349, R66: a write of `ADC.SMPX` writes the sample-time cell of the channel that `ADC.SQ1` holds at that moment, and
no other; it reads back the value written. R553: outside the `undefined` points (log 10) `ADC.SQ1` changes only by a
write of it or by reset, so in a run that keeps the order of R531, point 5 included, every write of the sample time
reaches the cell of a channel ordinal that the program wrote before. -/
def Obligations.SampleTimeAlias : Prop :=
  (∀ s t : State, step s = .next t → reachesUndefined s = false → resetTurn s = false → t.adc.sq1 ≠ s.adc.sq1 →
    writesField .adcSq1 s = true) ∧
  (∀ (s t : State) (n : Nat), ChannelFirst s → (∀ m u, m < n → after m s = some u → keepsOrder u = true) →
    after n s = some t → writesField .adcSmpx t = true →
    ∃ m u v, m < n ∧ after m s = some u ∧ writesNow u = some (.adcSq1, v) ∧ t.adc.sq1 = v.setWidth 5) ∧
  (∀ (s : State) (v : BusWord), s.clk.adcen = 1 → v.toNat < 8 →
    writeField .adcSmpx v s = { s with adc := { s.adc with smp := (writeField .adcSmpx v s).adc.smp } } ∧
    ∀ j : Fin 32, (writeField .adcSmpx v s).adc.smp[j] =
      if j.val = s.adc.sq1.toNat then v.setWidth 3 else s.adc.smp[j]) ∧
  ∀ (s : State) (k : BitVec 6), s.clk.adcen = 1 → k.toNat < 8 → ∃ t, exec (.wri 0x20 k) s = .next t ∧
    t = { s with pc := s.pc + 1, adc := { s.adc with smp := t.adc.smp } } ∧
    (∀ j : Fin 32, t.adc.smp[j] = if j.val = s.adc.sq1.toNat then k.setWidth 3 else s.adc.smp[j]) ∧
    value .adcSmpx t = k.setWidth 32

/-- R362: a start command to a ready converter arms it and does nothing else; writing 0 does nothing. -/
def Obligations.StartCommandArms : Prop :=
  ∀ s : State, s.clk.adcen = 1 →
    (s.adc.adon = 1 → s.adc.adons = 1 →
      exec (.set 0x21) s = .next { s with pc := s.pc + 1, adc := { s.adc with armed := 1 } }) ∧
    (s.adc.adon = 1 → s.adc.adons = 1 → s.adc.armed = 1 → exec (.set 0x21) s = .next { s with pc := s.pc + 1 }) ∧
    exec (.clr 0x21) s = .next { s with pc := s.pc + 1 }

/-- R376: a write of 0 clears a completion flag and nothing else; a write of 1 changes nothing. -/
def Obligations.CompletionFlagWrites : Prop :=
  ∀ s : State, s.clk.adcen = 1 →
    writeField .adcEoc 0 s = { s with adc := { s.adc with eoc := 0 } } ∧ writeField .adcEoc 1 s = s ∧
    writeField .adcJeoc 0 s = { s with adc := { s.adc with jeoc := 0 } } ∧ writeField .adcJeoc 1 s = s ∧
    exec (.clr 0x22) s = .next { s with pc := s.pc + 1, adc := { s.adc with eoc := 0 } } ∧
    exec (.clr 0x23) s = .next { s with pc := s.pc + 1, adc := { s.adc with jeoc := 0 } } ∧
    exec (.set 0x22) s = .next { s with pc := s.pc + 1 } ∧
    exec (.set 0x23) s = .next { s with pc := s.pc + 1 }

/-- R375, R379: outside the `undefined` points, `ADC.EOC` falls only by an ungated read of `ADC.DR`, a write to the flag
or reset; `ADC.JEOC` only by a write to the flag or reset; the write is one of 0 unless it is gated (R113). Neither
changes the data registers. -/
def Obligations.CompletionFlagsFallOnlyAsStated : Prop :=
  ∀ s t : State, step s = .next t → reachesUndefined s = false → resetTurn s = false →
    (s.adc.eoc = 1 → t.adc.eoc = 0 → t.adc.dr = s.adc.dr ∧
      (((executes s).bind readSource = some .adcDr ∧ s.clk.adcen = 1) ∨
        ∃ v, (executes s).bind (fun i => writes i s) = some (.adcEoc, v) ∧ (v = 0 ∨ s.clk.adcen = 0))) ∧
    (s.adc.jeoc = 1 → t.adc.jeoc = 0 → t.adc.jdr1 = s.adc.jdr1 ∧ t.adc.jdr2 = s.adc.jdr2 ∧
      t.adc.jdr3 = s.adc.jdr3 ∧ t.adc.jdr4 = s.adc.jdr4 ∧
      ∃ v, (executes s).bind (fun i => writes i s) = some (.adcJeoc, v) ∧ (v = 0 ∨ s.clk.adcen = 0))

/-- R367: outside the `undefined` points, a conversion starts only by a trigger pulse that the converter accepts (R365):
the timer's output moved in that step by an edge of a selected polarity, `ADC.EXTSEL` = 7, and the converter was
clocked, enabled, ready, armed and idle; the channel and bank are latched then. -/
def Obligations.ConversionStartsOnlyByTrigger : Prop :=
  ∀ s t : State, step s = .next t → reachesUndefined s = false → s.adc.busy = 0 → t.adc.busy = 1 →
    startsConversion (oc1ref s.tim) (oc1ref t.tim) s ∧ oc1ref s.tim ≠ oc1ref t.tim ∧ s.adc.exten ≠ 0 ∧
    t.adc.convCh = s.adc.sq1 ∧ t.adc.convBank = s.adc.bank

/-- The model's choice at the three `undefined` points, which the spec gives as totalising alternatives (U4, U5, U6;
log 10, 11, 12): the write touches only what it says there (the two that move the timer may start a conversion by the
edge they make, log 19), and the step goes on. A step that keeps R531's points 1 to 4 and 6 draws no open value, so its
outcome rests on none, and records no context fault. -/
def Obligations.UndefinedPointsStayLocal : Prop :=
  (∀ s t : State, step s = .next t → keepsOrder s = true →
    t.draws = s.draws ∧ (s.sys.fcause ≠ 6 → t.sys.fcause ≠ 6)) ∧
  (∀ s : State, s.clk.timen = 0 → clkStable s.clk = false →
    ∃ t, exec (.set 0x04) s = .next t ∧ t.pc = s.pc + 1 ∧ t.clk = { s.clk with timen := 1 } ∧ t.sys = s.sys ∧
      t.sh = s.sh ∧ RunKept s t ∧
      (t.adc = s.adc ∨ t.adc = { s.adc with busy := 1, convCh := s.adc.sq1, convBank := s.adc.bank })) ∧
  (∀ s : State, s.clk.adcen = 0 → clkStable s.clk = false →
    ∃ t, exec (.set 0x05) s = .next t ∧ t.pc = s.pc + 1 ∧ t.clk = { s.clk with adcen := 1 } ∧ t.sys = s.sys ∧
      t.sh = s.sh ∧ t.tim = s.tim ∧ RunKept s t) ∧
  (∀ s : State, s.clk.timen = 1 → (s.tim.oc1pe = 0 ∨ s.tim.arpe = 0) →
    ∃ t, exec (.set 0x0E) s = .next t ∧ t.pc = s.pc + 1 ∧ t.clk = s.clk ∧ t.sys = s.sys ∧ t.sh = s.sh ∧ RunKept s t ∧
      t.tim = { s.tim with pscA := t.tim.pscA, arrA := t.tim.arrA, ccrA := t.tim.ccrA, cnt := 0, pscCnt := 0 } ∧
      (t.adc = s.adc ∨ t.adc = { s.adc with busy := 1, convCh := s.adc.sq1, convBank := s.adc.bank })) ∧
  (∀ s : State, s.clk.adcen = 1 → (s.adc.adon = 0 ∨ s.adc.adons = 0) →
    ∃ t, exec (.set 0x21) s = .next t ∧ t.pc = s.pc + 1 ∧ t.clk = s.clk ∧ t.sys = s.sys ∧ t.sh = s.sh ∧
      t.tim = s.tim ∧ RunKept s t ∧
      (t.adc = s.adc ∨ (t.adc.dr.toNat < 4096 ∧ t.adc = { s.adc with armed := 1, dr := t.adc.dr, eoc := t.adc.eoc })))

/-! ### Phase, reset, application -/

/-- R440: which phase each condition gives, on stored state; the value 7 never occurs. -/
def Obligations.PhaseNamesTheState : Prop :=
  ∀ s : State,
    (phase s = 0 ↔ ¬(s.clk.sws = 0 ∧ s.clk.hsion = 1 ∧ s.clk.hsirdy = 1 ∧ s.clk.ppre2 = 0 ∧ s.clk.timen = 1 ∧
      s.clk.adcen = 1)) ∧
    (phase s = 1 ↔ clockConfigured s.clk = true ∧
      ¬(s.tim.oc1m = 6 ∧ s.tim.oc1pe = 1 ∧ s.tim.arpe = 1 ∧ s.tim.cen = 1)) ∧
    (phase s = 2 ↔ clockConfigured s.clk = true ∧ timerConfigured s.tim = true ∧ s.adc.adon = 0) ∧
    (phase s = 3 ↔ clockConfigured s.clk = true ∧ timerConfigured s.tim = true ∧ s.adc.adon = 1 ∧
      (s.adc.adons = 0 ∨ s.adc.armed = 0)) ∧
    (phase s = 5 ↔ clockConfigured s.clk = true ∧ timerConfigured s.tim = true ∧ s.adc.adon = 1 ∧ s.adc.adons = 1 ∧
      s.adc.armed = 1 ∧ s.adc.busy = 1) ∧
    (phase s = 6 ↔ clockConfigured s.clk = true ∧ timerConfigured s.tim = true ∧ s.adc.adon = 1 ∧ s.adc.adons = 1 ∧
      s.adc.armed = 1 ∧ s.adc.busy = 0 ∧ s.adc.eoc = 1) ∧
    (phase s = 4 ↔ clockConfigured s.clk = true ∧ timerConfigured s.tim = true ∧ s.adc.adon = 1 ∧ s.adc.adons = 1 ∧
      s.adc.armed = 1 ∧ s.adc.busy = 0 ∧ s.adc.eoc = 0) ∧
    phase s ≠ 7 ∧ value .sysPhase s = (phase s).setWidth 32 ∧ gated .sysPhase s = false ∧
    (outputs s).phaseOut = phase s

/-- R521: after reset, whatever the clock status, the store and the straps: entry at 0x00 in main context with
interrupts disabled and no fault, and the derived values are 0. -/
def Obligations.ResetEntersMainContext : Prop :=
  ∀ src osc imem param, ∃ s, s = State.launch src osc imem param ∧
    s.pc = 0x00 ∧ s.sys.ie = 0 ∧ s.sys.inh = 0 ∧ s.sys.tickp = 0 ∧ s.sys.fcause = 0 ∧
    oc1ref s.tim = 0 ∧ adcIrq s = false ∧ statusWord s.adc = 0 ∧ phase s = 0 ∧ (outputs s).faultOut = 0

/-- R93, R523: `rst` may come at any time, also while faulted; every field is then 0 but `CLK.HSION` and the two drawn
status fields (R94), the store and the straps are untouched (R522). That assertion and release are one step and that the
model's own fields go on is the model's choice (log 18). -/
def Obligations.ResetAtAnyTime : Prop :=
  ∀ (s : State) (rest : List AgentStep) (src : ClkSource) (osc : Bit), s.agenda = .rst src osc :: rest →
    ∃ t, step s = .next t ∧ t.pc = 0 ∧ t.imem = s.imem ∧ t.param = s.param ∧ t.agenda = rest ∧ t.draws = s.draws ∧
      t.clk.sws = src.code ∧ t.clk.hsirdy = osc ∧ value .clkHsion t = 1 ∧
      (∀ x : Field, x ≠ .clkSws → x ≠ .clkHsirdy → x ≠ .clkHsion → value x t = 0) ∧
      t.tim.pscA = 0 ∧ t.tim.arrA = 0 ∧ t.tim.ccrA = 0 ∧ t.tim.pscCnt = 0 ∧
      (∀ j : Fin 32, t.adc.smp[j] = 0) ∧ t.adc.convCh = 0 ∧ t.adc.convBank = 0

/-- R130: the application's steps: a write sets `SH.BG` or `SH.TC` and nothing else, a read returns the stored content of
any `SH` field and changes nothing; so the
result slots, the tick counter and `SH.SIP` are changed only by the sequencer or reset. -/
def Obligations.ApplicationIsConfined : Prop :=
  (∀ (s : State) (rest : List AgentStep) (v : Bit),
    (s.agenda = .appWrite .bg v :: rest → step s = .next { s with agenda := rest, sh := { s.sh with bg := v } }) ∧
    (s.agenda = .appWrite .tc v :: rest → step s = .next { s with agenda := rest, sh := { s.sh with tc := v } })) ∧
  (∀ (s : State) (rest : List AgentStep) (c : ShCell), s.agenda = .appRead c :: rest →
    step s = .next { s with agenda := rest }) ∧
  (∀ s : State, appReadValue .ms s = s.sh.ms ∧ appReadValue .bg s = s.sh.bg.setWidth 32 ∧
    appReadValue .tc s = s.sh.tc.setWidth 32 ∧ appReadValue .sip s = s.sh.sip.setWidth 32 ∧
    appReadValue .regres s = s.sh.regres.setWidth 32 ∧ appReadValue .injres1 s = s.sh.injres1.setWidth 32 ∧
    appReadValue .injres2 s = s.sh.injres2.setWidth 32 ∧ appReadValue .injres3 s = s.sh.injres3.setWidth 32 ∧
    appReadValue .injres4 s = s.sh.injres4.setWidth 32) ∧
  (∀ s t : State, step s = .next t → executes s = none → resetTurn s = false →
    t.sh = { s.sh with bg := t.sh.bg, tc := t.sh.tc })
end

