-- ==== Sys2Proof/Laws/Memory.lean ====
section
/-! SUPPORT. The operation store: a read after a write, and the canonical form that every store operation keeps. -/

namespace Sys2Proof.Machine

/-- The canonical form from an address on holds from every lower address on. -/
theorem Memory.wfFrom_mono {lo lo' : Nat} (h : lo' ≤ lo) : ∀ m : Memory, Memory.wfFrom lo m = true → Memory.wfFrom lo' m = true
  | [], _ => rfl
  | (k, b) :: rest, hm => by
    simp only [Memory.wfFrom, Bool.and_eq_true, decide_eq_true_eq] at hm ⊢
    exact ⟨⟨⟨le_trans h hm.1.1.1, hm.1.1.2⟩, hm.1.2⟩, hm.2⟩

/-- An address below a canonical list reads as an unlisted one. -/
theorem Memory.read_below : ∀ (m : Memory) {lo a : Nat}, Memory.wfFrom lo m = true → a < lo → m.read a = unlistedByte
  | [], _, _, _, _ => rfl
  | (k, b) :: rest, lo, a, hm, ha => by
    simp only [Memory.wfFrom, Bool.and_eq_true, decide_eq_true_eq] at hm
    have hk : k ≠ a := by omega
    simp only [Memory.read, if_neg hk]
    exact Memory.read_below rest hm.2 (by omega)

/-- A write inside the store keeps the canonical form. -/
theorem Memory.write_wfFrom (b : Byte) {a : Nat} (ha : a < storeBytes) :
    ∀ (m : Memory) {lo : Nat}, lo ≤ a → Memory.wfFrom lo m = true → Memory.wfFrom lo (m.write a b) = true
  | [], lo, hlo, _ => by
    by_cases hb : b = unlistedByte <;> simp [Memory.write, Memory.wfFrom, hb, hlo, ha]
  | (k, c) :: rest, lo, hlo, hm => by
    have hm' := hm
    simp only [Memory.wfFrom, Bool.and_eq_true, decide_eq_true_eq] at hm
    obtain ⟨⟨⟨hk, hks⟩, hc⟩, hr⟩ := hm
    simp only [Memory.write]
    split
    · rename_i hak
      split
      · exact hm'
      · rename_i hb
        simp only [Memory.wfFrom, Bool.and_eq_true, decide_eq_true_eq]
        exact ⟨⟨⟨hlo, ha⟩, hb⟩, ⟨⟨by omega, hks⟩, hc⟩, hr⟩
    · split
      · rename_i hak
        subst hak
        split
        · exact Memory.wfFrom_mono (by omega) rest hr
        · rename_i hb
          simp only [Memory.wfFrom, Bool.and_eq_true, decide_eq_true_eq]
          exact ⟨⟨⟨hlo, ha⟩, hb⟩, hr⟩
      · simp only [Memory.wfFrom, Bool.and_eq_true, decide_eq_true_eq]
        exact ⟨⟨⟨hk, hks⟩, hc⟩, Memory.write_wfFrom b ha rest (by omega) hr⟩

/-- A write inside the store keeps the canonical form. -/
theorem Memory.write_wf {m : Memory} {a : Nat} (b : Byte) (ha : a < storeBytes) (hm : m.wf = true) : (m.write a b).wf = true :=
  Memory.write_wfFrom b ha m (Nat.zero_le a) hm

/-- A read of the address written gives the byte written. -/
theorem Memory.read_write_same (b : Byte) (a : Nat) :
    ∀ (m : Memory) {lo : Nat}, Memory.wfFrom lo m = true → (m.write a b).read a = b
  | [], _, _ => by
    by_cases hb : b = unlistedByte <;> simp [Memory.write, Memory.read, hb]
  | (k, c) :: rest, lo, hm => by
    have hm' := hm
    simp only [Memory.wfFrom, Bool.and_eq_true, decide_eq_true_eq] at hm
    simp only [Memory.write]
    split
    · split
      · rename_i hak hb
        subst hb
        have hka : k ≠ a := by omega
        simp only [Memory.read, if_neg hka]
        exact Memory.read_below rest hm.2 (by omega)
      · simp [Memory.read]
    · split
      · rename_i hak
        subst hak
        split
        · rename_i hb
          subst hb
          exact Memory.read_below rest hm.2 (Nat.lt_succ_self _)
        · simp [Memory.read]
      · rename_i h1 h2
        have hka : k ≠ a := fun h => h2 h.symm
        simp only [Memory.read, if_neg hka]
        exact Memory.read_write_same b a rest hm.2

/-- A write leaves every other address alone. -/
theorem Memory.read_write_other (b : Byte) {a x : Nat} (hx : x ≠ a) :
    ∀ m : Memory, (m.write a b).read x = m.read x
  | [] => by
    by_cases hb : b = unlistedByte <;> simp [Memory.write, Memory.read, hb, Ne.symm hx]
  | (k, c) :: rest => by
    simp only [Memory.write]
    split
    · split
      · rfl
      · simp [Memory.read, Ne.symm hx]
    · split
      · rename_i hak
        subst hak
        split <;> simp [Memory.read, Ne.symm hx]
      · simp only [Memory.read]
        split
        · rfl
        · exact Memory.read_write_other b hx rest

/-- Loading a word keeps the canonical form. -/
theorem Memory.writeWord_wf {m : Memory} (a : Addr) (w : OpWord) (hm : m.wf = true) : (m.writeWord a w).wf = true := by
  have ha := a.isLt
  exact Memory.write_wf _ (by simp only [storeBytes]; omega)
    (Memory.write_wf _ (by simp only [storeBytes]; omega) hm)

/-- A run of bytes inside the store is canonical. -/
theorem Memory.ofBytes_wf : ∀ (bs : List Byte) (a : Nat), a + bs.length ≤ storeBytes →
    Memory.wfFrom a (Memory.ofBytes a bs) = true
  | [], _, _ => rfl
  | b :: bs, a, h => by
    simp only [List.length_cons] at h
    have ih := Memory.ofBytes_wf bs (a + 1) (by omega)
    simp only [Memory.ofBytes]
    split
    · exact Memory.wfFrom_mono (Nat.le_succ a) _ ih
    · rename_i hb
      simp only [Memory.wfFrom, Bool.and_eq_true, decide_eq_true_eq]
      exact ⟨⟨⟨le_rfl, by omega⟩, hb⟩, ih⟩

/-- The store of any list of words is canonical. -/
theorem Memory.ofWords_wf (ws : List OpWord) : (Memory.ofWords ws).wf = true := by
  refine Memory.ofBytes_wf _ 0 ?_
  have h : ∀ l : List OpWord, (l.flatMap wordBytes).length = 2 * l.length := by
    intro l
    induction l with
    | nil => rfl
    | cons w l ih =>
      rw [List.flatMap_cons, List.length_append, ih, List.length_cons]
      simp only [wordBytes, List.length_cons, List.length_nil]
      omega
  have h64 : (ws.take 64).length ≤ 64 := List.length_take_le 64 ws
  rw [h]
  simp only [storeBytes]
  omega

/-- The standard image is canonical, so the reset state's store is. -/
theorem standardImage_wf : standardImage.wf = true := Memory.ofWords_wf _

end Sys2Proof.Machine
end

