-- ==== Sys2Proof/Laws/State.lean ====
section
/-! SUPPORT. What each named update of State does to each of its parts: one lemma per part per update. -/

namespace Sys2Proof.Machine

@[simp] theorem advance_pc (s : State) : (advance s).pc = s.pc + 1 := rfl
@[simp] theorem advance_clk (s : State) : (advance s).clk = s.clk := rfl
@[simp] theorem advance_tim (s : State) : (advance s).tim = s.tim := rfl
@[simp] theorem advance_adc (s : State) : (advance s).adc = s.adc := rfl
@[simp] theorem advance_sys (s : State) : (advance s).sys = s.sys := rfl
@[simp] theorem advance_sh (s : State) : (advance s).sh = s.sh := rfl
@[simp] theorem advance_imem (s : State) : (advance s).imem = s.imem := rfl
@[simp] theorem advance_param (s : State) : (advance s).param = s.param := rfl
@[simp] theorem advance_agenda (s : State) : (advance s).agenda = s.agenda := rfl
@[simp] theorem advance_draws (s : State) : (advance s).draws = s.draws := rfl

@[simp] theorem jumpTo_pc (t : Addr) (s : State) : (jumpTo t s).pc = t := rfl
@[simp] theorem jumpTo_clk (t : Addr) (s : State) : (jumpTo t s).clk = s.clk := rfl
@[simp] theorem jumpTo_tim (t : Addr) (s : State) : (jumpTo t s).tim = s.tim := rfl
@[simp] theorem jumpTo_adc (t : Addr) (s : State) : (jumpTo t s).adc = s.adc := rfl
@[simp] theorem jumpTo_sys (t : Addr) (s : State) : (jumpTo t s).sys = s.sys := rfl
@[simp] theorem jumpTo_sh (t : Addr) (s : State) : (jumpTo t s).sh = s.sh := rfl
@[simp] theorem jumpTo_imem (t : Addr) (s : State) : (jumpTo t s).imem = s.imem := rfl
@[simp] theorem jumpTo_param (t : Addr) (s : State) : (jumpTo t s).param = s.param := rfl
@[simp] theorem jumpTo_agenda (t : Addr) (s : State) : (jumpTo t s).agenda = s.agenda := rfl
@[simp] theorem jumpTo_draws (t : Addr) (s : State) : (jumpTo t s).draws = s.draws := rfl

@[simp] theorem recordFault_pc (c : Cause) (s : State) : (recordFault c s).pc = s.pc := rfl
@[simp] theorem recordFault_clk (c : Cause) (s : State) : (recordFault c s).clk = s.clk := rfl
@[simp] theorem recordFault_tim (c : Cause) (s : State) : (recordFault c s).tim = s.tim := rfl
@[simp] theorem recordFault_adc (c : Cause) (s : State) : (recordFault c s).adc = s.adc := rfl
@[simp] theorem recordFault_sys (c : Cause) (s : State) : (recordFault c s).sys = { s.sys with fcause := c.code } := rfl
@[simp] theorem recordFault_sh (c : Cause) (s : State) : (recordFault c s).sh = s.sh := rfl
@[simp] theorem recordFault_imem (c : Cause) (s : State) : (recordFault c s).imem = s.imem := rfl
@[simp] theorem recordFault_param (c : Cause) (s : State) : (recordFault c s).param = s.param := rfl
@[simp] theorem recordFault_agenda (c : Cause) (s : State) : (recordFault c s).agenda = s.agenda := rfl
@[simp] theorem recordFault_draws (c : Cause) (s : State) : (recordFault c s).draws = s.draws := rfl

@[simp] theorem countDraws_pc (n : Nat) (s : State) : (countDraws n s).pc = s.pc := rfl
@[simp] theorem countDraws_clk (n : Nat) (s : State) : (countDraws n s).clk = s.clk := rfl
@[simp] theorem countDraws_tim (n : Nat) (s : State) : (countDraws n s).tim = s.tim := rfl
@[simp] theorem countDraws_adc (n : Nat) (s : State) : (countDraws n s).adc = s.adc := rfl
@[simp] theorem countDraws_sys (n : Nat) (s : State) : (countDraws n s).sys = s.sys := rfl
@[simp] theorem countDraws_sh (n : Nat) (s : State) : (countDraws n s).sh = s.sh := rfl
@[simp] theorem countDraws_imem (n : Nat) (s : State) : (countDraws n s).imem = s.imem := rfl
@[simp] theorem countDraws_param (n : Nat) (s : State) : (countDraws n s).param = s.param := rfl
@[simp] theorem countDraws_agenda (n : Nat) (s : State) : (countDraws n s).agenda = s.agenda := rfl
@[simp] theorem countDraws_draws (n : Nat) (s : State) : (countDraws n s).draws = s.draws + n := rfl

@[simp] theorem setLatch_pc (v : BusWord) (s : State) : (setLatch v s).pc = s.pc := rfl
@[simp] theorem setLatch_clk (v : BusWord) (s : State) : (setLatch v s).clk = s.clk := rfl
@[simp] theorem setLatch_tim (v : BusWord) (s : State) : (setLatch v s).tim = s.tim := rfl
@[simp] theorem setLatch_adc (v : BusWord) (s : State) : (setLatch v s).adc = s.adc := rfl
@[simp] theorem setLatch_sys (v : BusWord) (s : State) : (setLatch v s).sys = { s.sys with latch := v.setWidth 16 } := rfl
@[simp] theorem setLatch_sh (v : BusWord) (s : State) : (setLatch v s).sh = s.sh := rfl
@[simp] theorem setLatch_imem (v : BusWord) (s : State) : (setLatch v s).imem = s.imem := rfl
@[simp] theorem setLatch_param (v : BusWord) (s : State) : (setLatch v s).param = s.param := rfl
@[simp] theorem setLatch_agenda (v : BusWord) (s : State) : (setLatch v s).agenda = s.agenda := rfl
@[simp] theorem setLatch_draws (v : BusWord) (s : State) : (setLatch v s).draws = s.draws := rfl

@[simp] theorem interruptReturn_pc (s : State) : (interruptReturn s).pc = s.sys.epc := rfl
@[simp] theorem interruptReturn_clk (s : State) : (interruptReturn s).clk = s.clk := rfl
@[simp] theorem interruptReturn_tim (s : State) : (interruptReturn s).tim = s.tim := rfl
@[simp] theorem interruptReturn_adc (s : State) : (interruptReturn s).adc = s.adc := rfl
@[simp] theorem interruptReturn_sys (s : State) : (interruptReturn s).sys = { s.sys with ie := 1, inh := 0 } := rfl
@[simp] theorem interruptReturn_sh (s : State) : (interruptReturn s).sh = s.sh := rfl
@[simp] theorem interruptReturn_imem (s : State) : (interruptReturn s).imem = s.imem := rfl
@[simp] theorem interruptReturn_param (s : State) : (interruptReturn s).param = s.param := rfl
@[simp] theorem interruptReturn_agenda (s : State) : (interruptReturn s).agenda = s.agenda := rfl
@[simp] theorem interruptReturn_draws (s : State) : (interruptReturn s).draws = s.draws := rfl

@[simp] theorem envTick_pc (s : State) : (envTick s).pc = s.pc := rfl
@[simp] theorem envTick_clk (s : State) : (envTick s).clk = s.clk := rfl
@[simp] theorem envTick_tim (s : State) : (envTick s).tim = s.tim := rfl
@[simp] theorem envTick_adc (s : State) : (envTick s).adc = s.adc := rfl
@[simp] theorem envTick_sys (s : State) : (envTick s).sys = { s.sys with tickp := 1 } := rfl
@[simp] theorem envTick_sh (s : State) : (envTick s).sh = s.sh := rfl
@[simp] theorem envTick_imem (s : State) : (envTick s).imem = s.imem := rfl
@[simp] theorem envTick_param (s : State) : (envTick s).param = s.param := rfl
@[simp] theorem envTick_agenda (s : State) : (envTick s).agenda = s.agenda := rfl
@[simp] theorem envTick_draws (s : State) : (envTick s).draws = s.draws := rfl

@[simp] theorem launch_pc (src osc imem param) : (State.launch src osc imem param).pc = 0 := rfl
@[simp] theorem launch_sys (src osc imem param) : (State.launch src osc imem param).sys = ⟨0, 0, 0, 0, 0, 0⟩ := rfl
@[simp] theorem launch_imem (src osc imem param) : (State.launch src osc imem param).imem = imem := rfl
@[simp] theorem launch_param (src osc imem param) : (State.launch src osc imem param).param = param := rfl
@[simp] theorem launch_agenda (src osc imem param) : (State.launch src osc imem param).agenda = [] := rfl
@[simp] theorem launch_draws (src osc imem param) : (State.launch src osc imem param).draws = 0 := rfl

@[simp] theorem resetStep_imem (src osc) (s : State) : (resetStep src osc s).imem = s.imem := rfl
@[simp] theorem resetStep_param (src osc) (s : State) : (resetStep src osc s).param = s.param := rfl
@[simp] theorem resetStep_agenda (src osc) (s : State) : (resetStep src osc s).agenda = s.agenda := rfl
@[simp] theorem resetStep_draws (src osc) (s : State) : (resetStep src osc s).draws = s.draws := rfl

/-- A 1-bit value is 0 or 1. -/
theorem bit_zero_or_one (b : Bit) : b = 0 ∨ b = 1 := by
  revert b; decide

theorem bit_ne_one {b : Bit} (h : b ≠ 1) : b = 0 := (bit_zero_or_one b).resolve_right h

theorem bit_ne_zero {b : Bit} (h : b ≠ 0) : b = 1 := (bit_zero_or_one b).resolve_left h

end Sys2Proof.Machine
end

