-- ==== Sys2Proof/Laws/Operands.lean ====
section
/-! SUPPORT. The field table (Table 10-F): what an id names, the widths, and what the check of a value says. -/

namespace Sys2Proof.Machine

/-- The id of a field names that field: no id is listed twice. -/
@[simp] theorem Field.ofId_row (x : Field) : Field.ofId x.row.id = some x := by
  cases x <;> rfl

/-- What an id names has that id. -/
theorem Field.row_of_ofId {f : FieldId} {x : Field} (h : Field.ofId f = some x) : x.row.id = f := by
  have h' := List.find?_some h
  simpa using h'

/-- Every field is in the list of fields. -/
theorem Field.mem_all (x : Field) : x ∈ Field.all := by
  cases x <;> decide

/-- A field is 1 to 32 bits wide (R100). -/
theorem Field.width_bounds (x : Field) : 1 ≤ x.width ∧ x.width ≤ 32 := by
  cases x <;> decide

/-- The check of a value: it fits the width and is one of the listed values (R108). -/
theorem Field.legal_iff (x : Field) (v : BusWord) :
    x.legal v = true ↔ v.toNat < 2 ^ x.width ∧ x.listed v = true := by
  simp [Field.legal]

/-- A 1-bit writable field takes 0 and 1 (Table 10-F). -/
theorem Field.legal_bit {x : Field} (hw : x.writable = true) (h1 : x.width = 1) : x.legal 0 = true ∧ x.legal 1 = true := by
  cases x <;> first | exact absurd hw (by decide) | exact absurd h1 (by decide) | decide

/-- The destinations of `INC` are writable (R184). -/
theorem Field.writable_of_countable {x : Field} (h : x.countable = true) : x.writable = true := by
  cases x <;> first | exact absurd h (by decide) | rfl

/-- The destinations of `INC` are the fields of class RW or RW-A (R184). -/
theorem Field.countable_iff (x : Field) : x.countable = true ↔ x.cls = .rw ∨ x.cls = .rwA := by
  cases x <;> decide

/-- A strap index is assigned when it is at most 8 (R100). -/
theorem strap_some (s : State) {p : StrapId} (h : p.toNat < 9) :
    strap s p = some ((s.param[p.toNat]'h).setWidth 32) := by
  simp [strap, h]

theorem strap_none (s : State) {p : StrapId} (h : ¬p.toNat < 9) : strap s p = none := by
  simp [strap, h]

end Sys2Proof.Machine
end

