-- ==== Sys2Proof/Laws/Ops.lean ====
section
/-! SUPPORT. What each shared operation can do, said once: the edge evaluation, field reads and field writes. -/

namespace Sys2Proof.Machine

/-! ### The output and its edges -/

theorem oc1ref_eq_one (t : Tim) : oc1ref t = 1 ↔ t.oc1m = 6 ∧ t.cnt.toNat < t.ccrA.toNat := by
  have h : (decide (t.oc1m = 6) && decide (t.cnt.toNat < t.ccrA.toNat)) = true ↔
      t.oc1m = 6 ∧ t.cnt.toNat < t.ccrA.toNat := by
    rw [Bool.and_eq_true, decide_eq_true_eq, decide_eq_true_eq]
  rw [← h, oc1ref, bit]
  cases (decide (t.oc1m = 6) && decide (t.cnt.toNat < t.ccrA.toNat)) <;> decide

theorem oc1ref_eq_zero (t : Tim) : oc1ref t = 0 ↔ ¬(t.oc1m = 6 ∧ t.cnt.toNat < t.ccrA.toNat) := by
  rw [← oc1ref_eq_one]
  rcases bit_zero_or_one (oc1ref t) with h | h <;> simp [h]

/-- A pulse changes nothing, or starts a conversion of an armed, idle, clocked converter (R321, R365, R366). -/
theorem triggerPulse_cases (e : Edge) (s : State) :
    triggerPulse e s = s ∨
    (s.adc.extsel = 7 ∧ pulseAccepted e s = true ∧ triggerPulse e s = { s with adc := startConversion s.adc }) := by
  simp only [triggerPulse, acceptPulse]
  split
  · rename_i h7
    split
    · rename_i ha
      exact Or.inr ⟨h7, ha, rfl⟩
    · exact Or.inl rfl
  · exact Or.inl rfl

/-- When a pulse is accepted, the converter is clocked, enabled, ready, armed and idle, and some edge is selected. -/
theorem pulseAccepted_spec {e : Edge} {s : State} (h : pulseAccepted e s = true) :
    s.clk.adcen = 1 ∧ s.adc.adon = 1 ∧ s.adc.adons = 1 ∧ s.adc.armed = 1 ∧ s.adc.busy = 0 ∧
    ((e = .rising ∧ (s.adc.exten = 1 ∨ s.adc.exten = 3)) ∨ (e = .falling ∧ (s.adc.exten = 2 ∨ s.adc.exten = 3))) := by
  simp only [pulseAccepted, edgeMatch, Bool.and_eq_true, Bool.or_eq_true, decide_eq_true_eq] at h
  refine ⟨h.1.1.1.1.1, h.1.1.1.1.2, h.1.1.1.2, h.1.1.2, h.1.2, ?_⟩
  cases e
  · rcases h.2 with (h' | h') | h'
    · exact Or.inl ⟨rfl, Or.inl h'.1⟩
    · exact absurd h'.2 (by decide)
    · exact Or.inl ⟨rfl, Or.inr h'⟩
  · rcases h.2 with (h' | h') | h'
    · exact absurd h'.2 (by decide)
    · exact Or.inr ⟨rfl, Or.inl h'.1⟩
    · exact Or.inr ⟨rfl, Or.inr h'⟩

/-- Replacing the timer's state replaces it, and may besides start a conversion; then the output moved, the timer is
the selected source, and the converter was clocked, enabled, ready, armed and idle (R311, R321, R365). -/
theorem putTim_cases (t : Tim) (s : State) :
    putTim t s = { s with tim := t } ∨
    (putTim t s = { s with tim := t, adc := startConversion s.adc } ∧ oc1ref s.tim ≠ oc1ref t ∧
      s.adc.extsel = 7 ∧ s.adc.exten ≠ 0 ∧ s.clk.adcen = 1 ∧ s.adc.adon = 1 ∧ s.adc.adons = 1 ∧ s.adc.armed = 1 ∧
      s.adc.busy = 0) := by
  have key : ∀ e : Edge, oc1ref s.tim ≠ oc1ref t →
      triggerPulse e { s with tim := t } = { s with tim := t } ∨
      (triggerPulse e { s with tim := t } = { s with tim := t, adc := startConversion s.adc } ∧
        oc1ref s.tim ≠ oc1ref t ∧ s.adc.extsel = 7 ∧ s.adc.exten ≠ 0 ∧ s.clk.adcen = 1 ∧ s.adc.adon = 1 ∧
        s.adc.adons = 1 ∧ s.adc.armed = 1 ∧ s.adc.busy = 0) := by
    intro e hne
    rcases triggerPulse_cases e { s with tim := t } with h | ⟨h7, ha, h⟩
    · exact Or.inl h
    · obtain ⟨h1, h2, h3, h4, h5, h6⟩ := pulseAccepted_spec ha
      refine Or.inr ⟨h, hne, h7, ?_, h1, h2, h3, h4, h5⟩
      rcases h6 with ⟨-, h6 | h6⟩ | ⟨-, h6 | h6⟩ <;> (intro h0; exact absurd (h6.symm.trans h0) (by decide))
  simp only [putTim, evalEdge]
  split
  · rename_i h
    exact key _ (by rw [h.1, h.2]; decide)
  · split
    · rename_i h
      exact key _ (by rw [h.1, h.2]; decide)
    · exact Or.inl rfl

@[simp] theorem putTim_tim (t : Tim) (s : State) : (putTim t s).tim = t := by
  rcases putTim_cases t s with h | ⟨h, -⟩ <;> rw [h]
@[simp] theorem putTim_pc (t : Tim) (s : State) : (putTim t s).pc = s.pc := by
  rcases putTim_cases t s with h | ⟨h, -⟩ <;> rw [h]
@[simp] theorem putTim_clk (t : Tim) (s : State) : (putTim t s).clk = s.clk := by
  rcases putTim_cases t s with h | ⟨h, -⟩ <;> rw [h]
@[simp] theorem putTim_sys (t : Tim) (s : State) : (putTim t s).sys = s.sys := by
  rcases putTim_cases t s with h | ⟨h, -⟩ <;> rw [h]
@[simp] theorem putTim_sh (t : Tim) (s : State) : (putTim t s).sh = s.sh := by
  rcases putTim_cases t s with h | ⟨h, -⟩ <;> rw [h]
@[simp] theorem putTim_imem (t : Tim) (s : State) : (putTim t s).imem = s.imem := by
  rcases putTim_cases t s with h | ⟨h, -⟩ <;> rw [h]
@[simp] theorem putTim_param (t : Tim) (s : State) : (putTim t s).param = s.param := by
  rcases putTim_cases t s with h | ⟨h, -⟩ <;> rw [h]
@[simp] theorem putTim_agenda (t : Tim) (s : State) : (putTim t s).agenda = s.agenda := by
  rcases putTim_cases t s with h | ⟨h, -⟩ <;> rw [h]
@[simp] theorem putTim_draws (t : Tim) (s : State) : (putTim t s).draws = s.draws := by
  rcases putTim_cases t s with h | ⟨h, -⟩ <;> rw [h]

/-- Replacing the timer's state leaves the converter alone or starts a conversion. -/
theorem putTim_adc (t : Tim) (s : State) : (putTim t s).adc = s.adc ∨ (putTim t s).adc = startConversion s.adc := by
  rcases putTim_cases t s with h | ⟨h, -⟩
  · exact Or.inl (by rw [h])
  · exact Or.inr (by rw [h])

/-! ### Reads -/

/-- Which fields a gate bit gates (R109): the timer group, the converter group, and no other. -/
theorem gated_tim {x : Field} (h : x.group = .tim) (s : State) : gated x s = decide (s.clk.timen = 0) := by
  simp [gated, h]

theorem gated_adc {x : Field} (h : x.group = .adc) (s : State) : gated x s = decide (s.clk.adcen = 0) := by
  simp [gated, h]

theorem gated_none {x : Field} (ht : x.group ≠ .tim) (ha : x.group ≠ .adc) (s : State) : gated x s = false := by
  unfold gated
  split <;> simp_all

/-- A read of a field that is not gated gives its value and counts no draw (R110). -/
theorem peek_open {x : Field} {s : State} (h : gated x s = false) : peek x s = (value x s, s) := by
  simp [peek, h]

/-- A read of a gated field gives the next draw of the field's width (R110). -/
theorem peek_gated {x : Field} {s : State} (h : gated x s = true) : peek x s = (anyOfWidth x s.draws, countDraws 1 s) := by
  simp [peek, h]

/-- A read has no effect but to count at most one draw. -/
theorem peek_state (x : Field) (s : State) : (peek x s).2 = s ∨ (peek x s).2 = countDraws 1 s := by
  cases h : gated x s
  · exact Or.inl (by rw [peek_open h])
  · exact Or.inr (by rw [peek_gated h])

/-- The read side effect is that of `ADC.DR` alone (R111). -/
theorem readEffect_other {x : Field} (h : x ≠ .adcDr) (s : State) : readEffect x s = s := by
  simp [readEffect, h]

theorem readEffect_cases (x : Field) (s : State) :
    readEffect x s = s ∨
    (x = .adcDr ∧ s.clk.adcen = 1 ∧ readEffect x s = { s with adc := { s.adc with eoc := 0 } }) := by
  by_cases hx : x = .adcDr
  · subst hx
    rcases bit_zero_or_one s.clk.adcen with h | h
    · exact Or.inl (by simp [readEffect, gated, Field.group, Field.row, h])
    · exact Or.inr ⟨rfl, h, by simp [readEffect, gated, Field.group, Field.row, h]⟩
  · exact Or.inl (readEffect_other hx s)

/-- What a read's side effect leaves alone: everything but the converter's group. -/
theorem readEffect_kept (x : Field) (s : State) :
    (readEffect x s).pc = s.pc ∧ (readEffect x s).clk = s.clk ∧ (readEffect x s).tim = s.tim ∧
    (readEffect x s).sys = s.sys ∧ (readEffect x s).sh = s.sh ∧ (readEffect x s).imem = s.imem ∧
    (readEffect x s).param = s.param ∧ (readEffect x s).agenda = s.agenda ∧ (readEffect x s).draws = s.draws := by
  rcases readEffect_cases x s with h | ⟨-, -, h⟩ <;> simp [h]

/-! ### Draws -/

/-- A draw of a field's width fits the width (R110). -/
theorem anyOfWidth_lt (x : Field) (k : Nat) : (anyOfWidth x k).toNat < 2 ^ x.width := by
  simp only [anyOfWidth, BitVec.toNat_ofNat]
  exact lt_of_le_of_lt (Nat.mod_le _ _) (Nat.mod_lt _ (Nat.two_pow_pos _))

/-- What a gated write leaves in a field is one of its legal values (R113). -/
theorem anyLegal_legal {x : Field} (k : Nat) (hw : x.writable = true) : x.legal (anyLegal x k) = true := by
  rw [Field.legal_iff]
  cases x <;> first
    | exact absurd hw (by decide)
    | exact ⟨anyOfWidth_lt _ k, rfl⟩
    | exact (show (0 : BusWord).toNat < 2 ^ 5 ∧ Field.listed Field.adcL 0 = true by decide)
    | (simp only [anyLegal, anyMode]; split <;> decide)

/-- A drawn data register keeps to 12 bits (R70, R71). -/
theorem anyData_lt (k : Nat) : (anyData k).toNat < 4096 := by
  simp only [anyData, BitVec.toNat_setWidth]
  have h := (anyBits 12 k).isLt
  omega

/-- A drawn output mode is one of the two legal ones (R51). -/
theorem anyMode_legal (k : Nat) : anyMode k = 0 ∨ anyMode k = 6 := by
  simp only [anyMode]
  split <;> simp

/-- The content of a field fits its width (Table 10-F). -/
theorem value_lt (x : Field) (s : State) : (value x s).toNat < 2 ^ x.width := by
  cases x <;> simp [value, Field.width, Field.row] <;> first | exact BitVec.isLt _ | omega

/-- A read, gated or not, gives a value of the field's width (R110). -/
theorem peek_lt (x : Field) (s : State) : (peek x s).1.toNat < 2 ^ x.width := by
  cases hg : gated x s
  · rw [peek_open hg]
    exact value_lt x s
  · rw [peek_gated hg]
    exact anyOfWidth_lt x s.draws

/-! ### Writes: what every write leaves alone -/

@[simp] theorem storeField_pc (x : Field) (v : BusWord) (s : State) : (storeField x v s).pc = s.pc := by
  cases x <;> simp [storeField]
@[simp] theorem storeField_sys (x : Field) (v : BusWord) (s : State) : (storeField x v s).sys = s.sys := by
  cases x <;> simp [storeField]
@[simp] theorem storeField_imem (x : Field) (v : BusWord) (s : State) : (storeField x v s).imem = s.imem := by
  cases x <;> simp [storeField]
@[simp] theorem storeField_param (x : Field) (v : BusWord) (s : State) : (storeField x v s).param = s.param := by
  cases x <;> simp [storeField]
@[simp] theorem storeField_agenda (x : Field) (v : BusWord) (s : State) : (storeField x v s).agenda = s.agenda := by
  cases x <;> simp [storeField]
@[simp] theorem storeField_draws (x : Field) (v : BusWord) (s : State) : (storeField x v s).draws = s.draws := by
  cases x <;> simp [storeField]

/-- A write whose field has no rule of its own, and is not gated, is a store (R112). -/
theorem writeField_open {x : Field} {s : State} (h : gated x s = false) (v : BusWord) : writeField x v s = writeOpen x v s := by
  simp [writeField, h]

theorem writeField_gated {x : Field} {s : State} (h : gated x s = true) (v : BusWord) : writeField x v s = writeGated x s := by
  simp [writeField, h]

@[simp] theorem writeTimen_kept (v : Bit) (s : State) :
    (writeTimen v s).pc = s.pc ∧ (writeTimen v s).sys = s.sys ∧ (writeTimen v s).imem = s.imem ∧
    (writeTimen v s).param = s.param ∧ (writeTimen v s).agenda = s.agenda := by
  simp only [writeTimen]
  split <;> simp

@[simp] theorem writeAdcen_kept (v : Bit) (s : State) :
    (writeAdcen v s).pc = s.pc ∧ (writeAdcen v s).sys = s.sys ∧ (writeAdcen v s).imem = s.imem ∧
    (writeAdcen v s).param = s.param ∧ (writeAdcen v s).agenda = s.agenda := by
  simp only [writeAdcen]
  split <;> simp

@[simp] theorem writeUg_kept (v : Bit) (s : State) :
    (writeUg v s).pc = s.pc ∧ (writeUg v s).sys = s.sys ∧ (writeUg v s).imem = s.imem ∧
    (writeUg v s).param = s.param ∧ (writeUg v s).agenda = s.agenda := by
  simp only [writeUg]
  split
  · simp
  · split <;> simp

@[simp] theorem writeSwstart_kept (v : Bit) (s : State) :
    (writeSwstart v s).pc = s.pc ∧ (writeSwstart v s).sys = s.sys ∧ (writeSwstart v s).imem = s.imem ∧
    (writeSwstart v s).param = s.param ∧ (writeSwstart v s).agenda = s.agenda := by
  simp only [writeSwstart]
  split
  · simp
  · split <;> simp

/-- What no field write reaches: `pc`, the sequencer's group, the store, the straps, the agenda. -/
theorem writeField_kept (x : Field) (v : BusWord) (s : State) :
    (writeField x v s).pc = s.pc ∧ (writeField x v s).sys = s.sys ∧ (writeField x v s).imem = s.imem ∧
    (writeField x v s).param = s.param ∧ (writeField x v s).agenda = s.agenda := by
  simp only [writeField]
  split
  · simp only [writeGated]
    split <;> simp
  · cases x <;> simp [writeOpen] <;> (try split) <;> simp

@[simp] theorem writeField_pc (x : Field) (v : BusWord) (s : State) : (writeField x v s).pc = s.pc :=
  (writeField_kept x v s).1
@[simp] theorem writeField_sys (x : Field) (v : BusWord) (s : State) : (writeField x v s).sys = s.sys :=
  (writeField_kept x v s).2.1
@[simp] theorem writeField_imem (x : Field) (v : BusWord) (s : State) : (writeField x v s).imem = s.imem :=
  (writeField_kept x v s).2.2.1
@[simp] theorem writeField_param (x : Field) (v : BusWord) (s : State) : (writeField x v s).param = s.param :=
  (writeField_kept x v s).2.2.2.1
@[simp] theorem writeField_agenda (x : Field) (v : BusWord) (s : State) : (writeField x v s).agenda = s.agenda :=
  (writeField_kept x v s).2.2.2.2

end Sys2Proof.Machine
end

