-- ==== Sys2Proof/Laws/PerInstr.lean ====
section
/-! SUPPORT. A law of every operation, made per operation: its encoding has the fixed bits of its row of the opcode map
(Table 30-B). -/

namespace Sys2Proof.Laws

/-- The fixed bits of a row of Table 30-B: which bits are fixed, and their values. -/
structure RowPattern where
  mask : OpWord
  value : OpWord
deriving DecidableEq, Repr

/-- The row of each operation (Table 30-B). -/
def rowPattern : Instr → RowPattern
  | .nop => ⟨0xFFFF, 0x0001⟩
  | .halt => ⟨0xFFFF, 0x0002⟩
  | .iret => ⟨0xFFFF, 0x0003⟩
  | .ei => ⟨0xFFFF, 0x0004⟩
  | .wri _ _ => ⟨0xF000, 0x1000⟩
  | .wrp _ _ => ⟨0xF000, 0x2000⟩
  | .set _ => ⟨0xF03F, 0x3000⟩
  | .clr _ => ⟨0xF03F, 0x4000⟩
  | .inc _ => ⟨0xF03F, 0x5000⟩
  | .mov _ _ => ⟨0xF000, 0x6000⟩
  | .wait _ _ => ⟨0xF000, 0x7000⟩
  | .jmp _ => ⟨0xFFC0, 0x8000⟩
  | .bts _ _ => ⟨0xFC00, 0x9000⟩
  | .btc _ _ => ⟨0xFC00, 0xA000⟩
  | .spin _ => ⟨0xFFC0, 0xB000⟩
  | .ldt _ => ⟨0xF03F, 0xC000⟩

/-- The word of a well-formed operation has its row's fixed bits. -/
def EncodingPattern.Statement (i : Instr) : Prop :=
  i.wellFormed = true → encodeWord i &&& (rowPattern i).mask = (rowPattern i).value

/-- Masking a packed word masks its three fields. -/
theorem pack_and (op op' : BitVec 4) (a a' b b' : BitVec 6) :
    packWord op a b &&& packWord op' a' b' = packWord (op &&& op') (a &&& a') (b &&& b') := by
  show (op ++ a ++ b : BitVec (4 + 6 + 6)) &&& (op' ++ a' ++ b' : BitVec (4 + 6 + 6)) = _
  rw [BitVec.and_append, BitVec.and_append]
  rfl

theorem and_ones4 (x : BitVec 4) : x &&& 0xF = x := BitVec.and_allOnes

theorem and_ones6 (x : BitVec 6) : x &&& 0x3F = x := BitVec.and_allOnes

theorem and_zero6 (x : BitVec 6) : x &&& 0 = 0 := BitVec.and_zero

/-- The high four bits of a packed word are the opcode. -/
theorem pack_and_op (op : BitVec 4) (a b : BitVec 6) : packWord op a b &&& 0xF000 = packWord op 0 0 := by
  have h : (0xF000 : OpWord) = packWord 0xF 0 0 := by decide
  rw [h, pack_and, and_ones4, and_zero6, and_zero6]

/-- The fixed bits of a word without a second operand. -/
theorem pack_and_op_b (op : BitVec 4) (a b : BitVec 6) : packWord op a b &&& 0xF03F = packWord op 0 b := by
  have h : (0xF03F : OpWord) = packWord 0xF 0 0x3F := by decide
  rw [h, pack_and, and_ones4, and_zero6, and_ones6]

/-- The fixed bits of a word without a first operand. -/
theorem pack_and_op_a (op : BitVec 4) (a b : BitVec 6) : packWord op a b &&& 0xFFC0 = packWord op a 0 := by
  have h : (0xFFC0 : OpWord) = packWord 0xF 0x3F 0 := by decide
  rw [h, pack_and, and_ones4, and_ones6, and_zero6]

/-- A bit index of at most 15 leaves the two high operand bits clear. -/
theorem pack_and_index (op : BitVec 4) {a : BitVec 6} (b : BitVec 6) (ha : a.toNat ≤ 15) :
    packWord op a b &&& 0xFC00 = packWord op 0 0 := by
  have h : (0xFC00 : OpWord) = packWord 0xF 0x30 0 := by decide
  have h0 : a &&& 0x30 = 0 := by
    revert a
    decide
  rw [h, pack_and, and_ones4, h0, and_zero6]

theorem EncodingPattern.nop : EncodingPattern.Statement .nop := fun _ => by decide
theorem EncodingPattern.halt : EncodingPattern.Statement .halt := fun _ => by decide
theorem EncodingPattern.iret : EncodingPattern.Statement .iret := fun _ => by decide
theorem EncodingPattern.ei : EncodingPattern.Statement .ei := fun _ => by decide
theorem EncodingPattern.wri (f : FieldId) (k : BitVec 6) : EncodingPattern.Statement (.wri f k) :=
  fun _ => pack_and_op 1 f k
theorem EncodingPattern.wrp (f : FieldId) (p : StrapId) : EncodingPattern.Statement (.wrp f p) :=
  fun _ => pack_and_op 2 f p
theorem EncodingPattern.set (f : FieldId) : EncodingPattern.Statement (.set f) := fun _ => pack_and_op_b 3 f 0
theorem EncodingPattern.clr (f : FieldId) : EncodingPattern.Statement (.clr f) := fun _ => pack_and_op_b 4 f 0
theorem EncodingPattern.inc (f : FieldId) : EncodingPattern.Statement (.inc f) := fun _ => pack_and_op_b 5 f 0
theorem EncodingPattern.mov (fd fs : FieldId) : EncodingPattern.Statement (.mov fd fs) := fun _ => pack_and_op 6 fd fs
theorem EncodingPattern.wait (f : FieldId) (k : BitVec 6) : EncodingPattern.Statement (.wait f k) :=
  fun _ => pack_and_op 7 f k
theorem EncodingPattern.jmp (t : Addr) : EncodingPattern.Statement (.jmp t) := fun _ => pack_and_op_a 8 0 t
theorem EncodingPattern.bts (j : BitVec 6) (t : Addr) : EncodingPattern.Statement (.bts j t) :=
  fun h => pack_and_index 9 t (by simpa [Instr.wellFormed] using h)
theorem EncodingPattern.btc (j : BitVec 6) (t : Addr) : EncodingPattern.Statement (.btc j t) :=
  fun h => pack_and_index 10 t (by simpa [Instr.wellFormed] using h)
theorem EncodingPattern.spin (p : StrapId) : EncodingPattern.Statement (.spin p) := fun _ => pack_and_op_a 11 0 p
theorem EncodingPattern.ldt (f : FieldId) : EncodingPattern.Statement (.ldt f) := fun _ => pack_and_op_b 12 f 0

end Sys2Proof.Laws
end

