-- ==== Sys2Proof/Laws/Step.lean ====
section
/-! SUPPORT. Inversion: all that executing an operation, and a step, can do. -/

namespace Sys2Proof.Machine

/-- The shared checked write stores and advances, or records BADVALUE (R185). -/
theorem writeChecked_cases {x : Field} {v : BusWord} {s t : State} (h : writeChecked x v s = .next t) :
    (x.legal v = true ∧ t = advance (writeField x v s)) ∨ (x.legal v = false ∧ t = recordFault .badValue s) := by
  simp only [writeChecked, raise] at h
  split at h
  · rename_i hl
    exact Or.inl ⟨hl, by simpa using h.symm⟩
  · rename_i hl
    exact Or.inr ⟨by simpa using hl, by simpa using h.symm⟩

/-- A read counts at most one draw. -/
theorem peek_state_count (x : Field) (s : State) : ∃ n, (peek x s).2 = countDraws n s := by
  rcases peek_state x s with h | h
  · exact ⟨0, h⟩
  · exact ⟨1, h⟩

/-- The part of a write's inversion that `SET` and `CLR` share. -/
theorem writeBit_cases {f : FieldId} {v : BusWord} {s t : State} (hv : v = 0 ∨ v = 1) (h : writeBit f v s = .next t) :
    (∃ c, t = recordFault c s) ∨
    (∃ x, ((Field.ofId f).bind fun y => passing (y.writable && decide (y.width = 1)) y v) = some (x, v) ∧
      t = advance (writeField x v s)) := by
  simp only [writeBit, raise] at h
  split at h
  · exact Or.inl ⟨_, by simpa using h.symm⟩
  · rename_i x hx
    split at h
    · rename_i hw
      refine Or.inr ⟨x, ?_, by simpa using h.symm⟩
      have hl : x.legal v = true := by
        rcases hv with rfl | rfl
        · exact (Field.legal_bit hw.1 hw.2).1
        · exact (Field.legal_bit hw.1 hw.2).2
      simp [hx, passing, hw.1, hw.2, hl]
    · exact Or.inl ⟨_, by simpa using h.symm⟩

theorem passing_some {ok : Bool} {x y : Field} {v w : BusWord} (h : passing ok x v = some (y, w)) :
    ok = true ∧ x.legal v = true ∧ x = y ∧ v = w := by
  simp only [passing] at h
  split at h
  · rename_i hh
    simp only [Bool.and_eq_true] at hh
    simp only [Option.some.injEq, Prod.mk.injEq] at h
    exact ⟨hh.1, hh.2, h.1, h.2⟩
  · cases h

/-- What an operation writes is a writable field and a legal value (R108, R112). -/
theorem writes_spec {i : Instr} {s : State} {x : Field} {v : BusWord} (h : writes i s = some (x, v)) :
    x.writable = true ∧ x.legal v = true := by
  have bitField : ∀ {y z : Field} {u w : BusWord},
      passing (y.writable && decide (y.width = 1)) y u = some (z, w) → z.writable = true ∧ z.legal w = true := by
    intro y z u w hp
    obtain ⟨h1, h2, rfl, rfl⟩ := passing_some hp
    exact ⟨(Bool.and_eq_true _ _ ▸ h1).1, h2⟩
  cases i <;> simp only [writes, Option.bind_eq_some_iff, reduceCtorEq] at h
  case wri =>
    obtain ⟨_, _, hp⟩ := h
    obtain ⟨h1, h2, rfl, rfl⟩ := passing_some hp
    exact ⟨h1, h2⟩
  case wrp =>
    obtain ⟨_, _, _, _, hp⟩ := h
    obtain ⟨h1, h2, rfl, rfl⟩ := passing_some hp
    exact ⟨h1, h2⟩
  case set =>
    obtain ⟨_, _, hp⟩ := h
    exact bitField hp
  case clr =>
    obtain ⟨_, _, hp⟩ := h
    exact bitField hp
  case inc =>
    obtain ⟨_, _, hp⟩ := h
    obtain ⟨h1, h2, rfl, rfl⟩ := passing_some hp
    exact ⟨Field.writable_of_countable h1, h2⟩
  case mov =>
    obtain ⟨_, _, _, _, hp⟩ := h
    obtain ⟨h1, h2, rfl, rfl⟩ := passing_some hp
    exact ⟨h1, h2⟩

/-- All that executing an operation can do: record a cause; write one field, after the read it may have made; load the
latch; poll; or move `pc`, with the interrupt state for `EI` and `IRET`. -/
theorem exec_cases {i : Instr} {s t : State} (h : exec i s = .next t) :
    (∃ c n, t = recordFault c (countDraws n s)) ∨
    (∃ x v n, writes i s = some (x, v) ∧
      t = advance (writeField x v ((readSource i).elim id readEffect (countDraws n s)))) ∨
    (∃ f x v n, i = .ldt f ∧ Field.ofId f = some x ∧ t = advance (setLatch v (readEffect x (countDraws n s)))) ∨
    (∃ f k x n, i = .wait f k ∧ Field.ofId f = some x ∧
      (t = advance (readEffect x (countDraws n s)) ∨ t = readEffect x (countDraws n s))) ∨
    (i = .halt ∧ t = s) ∨
    ((i = .nop ∨ (∃ j a, i = .bts j a) ∨ (∃ j a, i = .btc j a) ∨ (∃ p, i = .spin p)) ∧ t = advance s) ∨
    (∃ a, (i = .jmp a ∨ (∃ j, i = .bts j a) ∨ (∃ j, i = .btc j a)) ∧ t = jumpTo a s) ∨
    (i = .ei ∧ s.sys.inh ≠ 1 ∧ t = advance { s with sys := { s.sys with ie := 1 } }) ∨
    (i = .iret ∧ s.sys.inh ≠ 0 ∧ t = interruptReturn s) := by
  have fault : ∀ {c : Cause} {u : State}, raise c s = .next u → ∃ c n, u = recordFault c (countDraws n s) := by
    intro c u hu
    have hu' : u = recordFault c s := by simpa [raise] using hu.symm
    exact ⟨c, 0, hu'⟩
  cases i with
  | nop =>
    refine .inr <| .inr <| .inr <| .inr <| .inr <| .inl ⟨.inl rfl, by simpa [exec, execNop] using h.symm⟩
  | halt =>
    refine .inr <| .inr <| .inr <| .inr <| .inl ⟨rfl, by simpa [exec, execHalt] using h.symm⟩
  | iret =>
    simp only [exec, execIret] at h
    split at h
    · exact .inl (fault h)
    · rename_i h0
      exact .inr <| .inr <| .inr <| .inr <| .inr <| .inr <| .inr <| .inr ⟨rfl, h0, by simpa using h.symm⟩
  | ei =>
    simp only [exec, execEi] at h
    split at h
    · exact .inl (fault h)
    · rename_i h0
      exact .inr <| .inr <| .inr <| .inr <| .inr <| .inr <| .inr <| .inl ⟨rfl, h0, by simpa using h.symm⟩
  | wri f k =>
    simp only [exec, execWri] at h
    split at h
    · exact .inl (fault h)
    · rename_i x hx
      split at h
      · rename_i hw
        rcases writeChecked_cases h with ⟨hl, ht⟩ | ⟨-, ht⟩
        · exact .inr <| .inl ⟨x, immediate k, 0, by simp [writes, hx, passing, hw, hl], ht⟩
        · exact .inl ⟨.badValue, 0, ht⟩
      · exact .inl (fault h)
  | wrp f p =>
    simp only [exec, execWrp] at h
    split at h
    · exact .inl (fault h)
    · rename_i x hx
      split at h
      · exact .inl (fault h)
      · rename_i v hv
        split at h
        · rename_i hw
          rcases writeChecked_cases h with ⟨hl, ht⟩ | ⟨-, ht⟩
          · exact .inr <| .inl ⟨x, v, 0, by simp [writes, hx, hv, passing, hw, hl], ht⟩
          · exact .inl ⟨.badValue, 0, ht⟩
        · exact .inl (fault h)
  | set f =>
    rcases writeBit_cases (.inr rfl) h with ⟨c, ht⟩ | ⟨x, hx, ht⟩
    · exact .inl ⟨c, 0, ht⟩
    · exact .inr <| .inl ⟨x, 1, 0, hx, ht⟩
  | clr f =>
    rcases writeBit_cases (.inl rfl) h with ⟨c, ht⟩ | ⟨x, hx, ht⟩
    · exact .inl ⟨c, 0, ht⟩
    · exact .inr <| .inl ⟨x, 0, 0, hx, ht⟩
  | inc f =>
    simp only [exec, execInc] at h
    split at h
    · exact .inl (fault h)
    · rename_i x hx
      split at h
      · rename_i hw
        obtain ⟨n, hn⟩ := peek_state_count x s
        rw [hn] at h
        rcases writeChecked_cases h with ⟨hl, ht⟩ | ⟨-, ht⟩
        · exact .inr <| .inl ⟨x, _, n, by simp [writes, hx, passing, hw, hl], ht⟩
        · exact .inl ⟨.badValue, n, ht⟩
      · exact .inl (fault h)
  | mov fd fs =>
    simp only [exec, execMov] at h
    split at h
    · rename_i d src hd hs
      obtain ⟨n, hn⟩ := peek_state_count src s
      rw [hn] at h
      split at h
      · rename_i hw
        split at h
        · rename_i hl
          refine .inr <| .inl ⟨d, (peek src s).1, n, by simp [writes, hd, hs, passing, hw, hl], ?_⟩
          simpa [readSource, hs] using h.symm
        · exact .inl ⟨.badValue, n, by simpa [raise] using h.symm⟩
      · exact .inl (fault h)
    · exact .inl (fault h)
  | wait f k =>
    simp only [exec, execWait] at h
    split at h
    · exact .inl (fault h)
    · rename_i x hx
      obtain ⟨n, hn⟩ := peek_state_count x s
      rw [hn] at h
      refine .inr <| .inr <| .inr <| .inl ⟨f, k, x, n, rfl, hx, ?_⟩
      split at h
      · exact .inl (by simpa using h.symm)
      · exact .inr (by simpa using h.symm)
  | jmp a =>
    exact .inr <| .inr <| .inr <| .inr <| .inr <| .inr <| .inl ⟨a, .inl rfl, by simpa [exec, execJmp] using h.symm⟩
  | bts j a =>
    simp only [exec, execBts] at h
    split at h
    · split at h
      · exact .inr <| .inr <| .inr <| .inr <| .inr <| .inr <| .inl ⟨a, .inr (.inl ⟨j, rfl⟩), by simpa using h.symm⟩
      · exact .inr <| .inr <| .inr <| .inr <| .inr <| .inl ⟨.inr (.inl ⟨j, a, rfl⟩), by simpa using h.symm⟩
    · exact .inl (fault h)
  | btc j a =>
    simp only [exec, execBtc] at h
    split at h
    · split at h
      · exact .inr <| .inr <| .inr <| .inr <| .inr <| .inl ⟨.inr (.inr (.inl ⟨j, a, rfl⟩)), by simpa using h.symm⟩
      · exact .inr <| .inr <| .inr <| .inr <| .inr <| .inr <| .inl ⟨a, .inr (.inr ⟨j, rfl⟩), by simpa using h.symm⟩
    · exact .inl (fault h)
  | spin p =>
    simp only [exec, execSpin] at h
    split at h
    · exact .inl (fault h)
    · exact .inr <| .inr <| .inr <| .inr <| .inr <| .inl ⟨.inr (.inr (.inr ⟨p, rfl⟩)), by simpa using h.symm⟩
  | ldt f =>
    simp only [exec, execLdt] at h
    split at h
    · exact .inl (fault h)
    · rename_i x hx
      obtain ⟨n, hn⟩ := peek_state_count x s
      rw [hn] at h
      exact .inr <| .inr <| .inl ⟨f, x, _, n, rfl, hx, by simpa using h.symm⟩

/-- An operation that performs a write does not fault: it writes, after the read it may have made, and advances. -/
theorem exec_of_writes {i : Instr} {s : State} {x : Field} {v : BusWord} (h : writes i s = some (x, v)) :
    ∃ n, exec i s = .next (advance (writeField x v ((readSource i).elim id readEffect (countDraws n s)))) := by
  cases i <;> simp only [writes, Option.bind_eq_some_iff, reduceCtorEq] at h
  case wri =>
    obtain ⟨_, hf, hp⟩ := h
    obtain ⟨h1, h2, rfl, rfl⟩ := passing_some hp
    exact ⟨0, by simp [exec, execWri, hf, h1, writeChecked, h2, readSource, countDraws]⟩
  case wrp =>
    obtain ⟨_, hf, _, hs, hp⟩ := h
    obtain ⟨h1, h2, rfl, rfl⟩ := passing_some hp
    exact ⟨0, by simp [exec, execWrp, hf, hs, h1, writeChecked, h2, readSource, countDraws]⟩
  case set =>
    obtain ⟨_, hf, hp⟩ := h
    obtain ⟨h1, -, rfl, rfl⟩ := passing_some hp
    have h1' := by simpa using h1
    exact ⟨0, by simp [exec, execSet, writeBit, hf, h1', readSource, countDraws]⟩
  case clr =>
    obtain ⟨_, hf, hp⟩ := h
    obtain ⟨h1, -, rfl, rfl⟩ := passing_some hp
    have h1' := by simpa using h1
    exact ⟨0, by simp [exec, execClr, writeBit, hf, h1', readSource, countDraws]⟩
  case inc =>
    obtain ⟨x, hf, hp⟩ := h
    obtain ⟨h1, h2, rfl, rfl⟩ := passing_some hp
    obtain ⟨n, hn⟩ := peek_state_count x s
    exact ⟨n, by simp [exec, execInc, hf, h1, writeChecked, h2, readSource, hn]⟩
  case mov =>
    obtain ⟨_, hd, src, hs, hp⟩ := h
    obtain ⟨h1, h2, rfl, rfl⟩ := passing_some hp
    obtain ⟨n, hn⟩ := peek_state_count src s
    exact ⟨n, by simp [exec, execMov, hd, hs, h1, h2, readSource, hn]⟩

/-- What an operation writes does not depend on the agenda. -/
@[simp] theorem value_agenda (x : Field) (a : List AgentStep) (s : State) :
    value x { s with agenda := a } = value x s := by
  cases x <;> rfl

@[simp] theorem gated_agenda (x : Field) (a : List AgentStep) (s : State) :
    gated x { s with agenda := a } = gated x s := by
  cases x <;> rfl

theorem peek_agenda (x : Field) (a : List AgentStep) (s : State) :
    (peek x { s with agenda := a }).1 = (peek x s).1 := by
  simp only [peek, gated_agenda, value_agenda]
  split <;> rfl

@[simp] theorem writes_agenda (i : Instr) (a : List AgentStep) (s : State) :
    writes i { s with agenda := a } = writes i s := by
  cases i <;> first | rfl | simp only [writes, peek_agenda]

/-- All that a step of the sequencer that is not faulted can do. -/
theorem seqStep_cases {s t : State} (h : seqStep s = .next t) :
    (interruptTakeable s = true ∧ t = interruptEntry s) ∨
    (interruptTakeable s = false ∧ ∃ i, decode (fetch s) = .op i ∧ exec i s = .next t) ∨
    (interruptTakeable s = false ∧ (∃ w, decode (fetch s) = .illegal w) ∧ t = recordFault .illop s) := by
  simp only [seqStep] at h
  split at h
  · rename_i hi
    exact .inl ⟨hi, by simpa using h.symm⟩
  · rename_i hi
    cases hd : decode (fetch s) with
    | op i => exact .inr <| .inl ⟨by simpa using hi, i, rfl, by simpa [runDecoded, hd] using h⟩
    | illegal w =>
      exact .inr <| .inr ⟨by simpa using hi, ⟨w, rfl⟩, by simpa [runDecoded, hd, raise] using h.symm⟩

/-- The sequencer's turn, of a sequencer that is not faulted: the step is `SeqStep`, and the agenda's entry is used up. -/
theorem step_of_sequencerTurn {s : State} (h : sequencerTurn s = true) (hf : faulted s = false) :
    step s = seqStep { s with agenda := s.agenda.tail } := by
  obtain ⟨pc, clk, tim, adc, sys, sh, imem, param, agenda, draws⟩ := s
  have h0 : sys.fcause = 0 := by simpa [faulted] using hf
  cases agenda with
  | nil => simp [step, faulted, h0]
  | cons e rest =>
    cases e with
    | seq => simp [step, agentStep, faulted, h0]
    | _ => simp [sequencerTurn] at h

/-- Another agent's turn: the step is that agent's. -/
theorem step_of_agent {s : State} {e : AgentStep} {rest : List AgentStep} (h : s.agenda = e :: rest) :
    step s = agentStep e { s with agenda := rest } := by
  simp only [step, h]

/-- The operation that a step executes is executed with the agenda's entry used up. -/
theorem step_of_executes {s : State} {i : Instr} (h : executes s = some i) :
    step s = exec i { s with agenda := s.agenda.tail } := by
  simp only [executes, Bool.and_eq_true, Bool.not_eq_true'] at h
  split at h
  · rename_i hs
    have hd : decode (fetch s) = .op i := by
      split at h
      · rename_i j hj
        rw [hj, Option.some.inj h]
      · cases h
    have ht : interruptTakeable { s with agenda := s.agenda.tail } = false := hs.2
    have hd' : decode (fetch { s with agenda := s.agenda.tail }) = .op i := hd
    rw [step_of_sequencerTurn hs.1.1 hs.1.2]
    simp [seqStep, ht, hd', runDecoded]
  · cases h

/-- All that a step can do: the sequencer takes an interrupt, executes the operation at `pc`, records an illegal word or
has no step; or one of the other agents steps. -/
theorem step_cases {s t : State} (h : step s = .next t) :
    (takesInterrupt s = true ∧ t = interruptEntry { s with agenda := s.agenda.tail }) ∨
    (∃ i, executes s = some i ∧ exec i { s with agenda := s.agenda.tail } = .next t) ∨
    (sequencerTurn s = true ∧ faulted s = false ∧ interruptTakeable s = false ∧ executes s = none ∧
      t = recordFault .illop { s with agenda := s.agenda.tail }) ∨
    (s.agenda.head? = some .seq ∧ faulted s = true ∧ t = { s with agenda := s.agenda.tail }) ∨
    (∃ e, s.agenda.head? = some e ∧ e ≠ .seq ∧ agentStep e { s with agenda := s.agenda.tail } = .next t) := by
  have seqs : sequencerTurn s = true → faulted s = false → seqStep { s with agenda := s.agenda.tail } = .next t →
      (takesInterrupt s = true ∧ t = interruptEntry { s with agenda := s.agenda.tail }) ∨
      (∃ i, executes s = some i ∧ exec i { s with agenda := s.agenda.tail } = .next t) ∨
      (sequencerTurn s = true ∧ faulted s = false ∧ interruptTakeable s = false ∧ executes s = none ∧
        t = recordFault .illop { s with agenda := s.agenda.tail }) := by
    intro h1 h2 h3
    rcases seqStep_cases h3 with ⟨hi, ht⟩ | ⟨hi, i, hd, he⟩ | ⟨hi, ⟨w, hd⟩, ht⟩
    · have hi' : interruptTakeable s = true := hi
      exact .inl ⟨by simp [takesInterrupt, h1, h2, hi'], ht⟩
    · have hi' : interruptTakeable s = false := hi
      have hd' : decode (fetch s) = .op i := hd
      exact .inr <| .inl ⟨i, by simp [executes, h1, h2, hi', hd'], he⟩
    · have hi' : interruptTakeable s = false := hi
      have hd' : decode (fetch s) = .illegal w := hd
      exact .inr <| .inr ⟨h1, h2, hi', by simp [executes, h1, h2, hi', hd'], ht⟩
  cases ha : s.agenda with
  | nil =>
    have hs : ({ s with agenda := s.agenda.tail } : State) = s := by
      cases s; simp only at ha; subst ha; rfl
    have ht : sequencerTurn s = true := by simp [sequencerTurn, ha]
    simp only [step, ha] at h
    rcases Bool.eq_false_or_eq_true (faulted s) with hf | hf
    · simp [hf] at h
    · simp only [hf, Bool.false_eq_true, if_false] at h
      rw [← ha]
      rcases seqs ht hf (by rw [hs]; exact h) with h' | h' | h'
      · exact .inl h'
      · exact .inr (.inl h')
      · exact .inr (.inr (.inl h'))
  | cons e rest =>
    simp only [step, ha] at h
    by_cases he : e = .seq
    · subst he
      have ht : sequencerTurn s = true := by simp [sequencerTurn, ha]
      have hsf : faulted { s with agenda := rest } = faulted s := rfl
      simp only [agentStep, hsf] at h
      rcases Bool.eq_false_or_eq_true (faulted s) with hf | hf
      · simp only [hf, if_true] at h
        exact .inr <| .inr <| .inr <| .inl ⟨rfl, hf, by simpa using h.symm⟩
      · simp only [hf, Bool.false_eq_true, if_false] at h
        rcases seqs ht hf (by simpa [ha] using h) with h' | h' | h'
        · exact .inl (by simpa [ha] using h')
        · exact .inr (.inl (by simpa [ha] using h'))
        · exact .inr (.inr (.inl (by simpa [ha] using h')))
    · exact .inr <| .inr <| .inr <| .inr ⟨e, rfl, he, h⟩

end Sys2Proof.Machine
end

