-- ==== Sys2Proof/Tests/Slice0.lean ====
section
/-! SUPPORT. The author's own tests: the well-formedness smoke test, words written out from the encoding, single steps
from `95_test_vectors.md`, and for every statement with hypotheses a state and operands that meet them. -/

namespace Sys2Proof.Tests

open Sys2Proof Sys2Proof.Machine

/-! ### Helpers -/

/-- Whether the step from a state is a next state of which `p` holds. -/
def check (s : State) (p : State → Bool) : Bool :=
  match step s with
  | .next t => p t
  | .fault _ => false
  | .refused _ => false

/-- The start state of the single-operation vectors: `B0` with an empty store. -/
def b0 : State := { State.launch .internalRC 1 [] (Vector.replicate 9 0) with clk := ⟨0, 1, 1, 0, 1, 1⟩ }

/-- A word at `pc`. -/
def holding (w : OpWord) (s : State) : State := { s with imem := s.imem.writeWord s.pc w }

/-- An agent's step next. -/
def due (e : AgentStep) (s : State) : State := { s with agenda := [e] }

/-- A strap at a value. -/
def strapped (p : Fin 9) (v : BitVec 16) (s : State) : State := { s with param := s.param.set p v }

/-- PWM mode 1 with both preloads, `PSC` = 1, `ARR` = 4, `CCR1` = 2, active and running: the timer of vector T1. -/
def pwm : Tim := ⟨1, 4, 2, 6, 1, 1, 1, 0, 1, 4, 2, 0⟩

/-- A converter armed on the rising edge of the timer, channel 5 of bank B, continuous. -/
def armedAdc : Adc :=
  ⟨1, 1, 1, 1, 7, 1, 0, 5, Vector.replicate 32 0, 0, 0, 0, 0, 0, 0, 0, 0, 1, 0, 0, 0⟩

/-- `B0` with that timer and converter. -/
def run0 : State := { b0 with tim := pwm, adc := armedAdc }

/-! ### Well-formedness -/

theorem test_wellFormed_accepts_bit_15 : (Instr.bts 15 0x3F).wellFormed = true ∧ (Instr.btc 15 0).wellFormed = true := by
  decide

theorem test_wellFormed_refuses_bit_16 : (Instr.bts 16 0x3F).wellFormed = false ∧ (Instr.btc 63 0).wellFormed = false := by
  decide

/-! ### Decoding: words from section 2.1 and Table 30-B -/

theorem test_decode_system : decodeWord 0b0000000000000001 = .op .nop ∧ decodeWord 0b0000000000000010 = .op .halt ∧
    decodeWord 0b0000000000000011 = .op .iret ∧ decodeWord 0b0000000000000100 = .op .ei := by
  decide

theorem test_decode_field_writes : decodeWord 0b0001001011000110 = .op (.wri 0x0B 6) ∧
    decodeWord 0b0010001001000001 = .op (.wrp 0x09 1) ∧ decodeWord 0b0011011000000000 = .op (.set 0x18) ∧
    decodeWord 0b0100100011000000 = .op (.clr 0x23) ∧ decodeWord 0b0101110111000000 = .op (.inc 0x37) := by
  decide

theorem test_decode_load_move : decodeWord 0b1100101001000000 = .op (.ldt 0x29) ∧
    decodeWord 0b0110111011100100 = .op (.mov 0x3B 0x24) := by
  decide

theorem test_decode_control : decodeWord 0b0111011001000001 = .op (.wait 0x19 1) ∧
    decodeWord 0b1000000000101010 = .op (.jmp 0x2A) ∧ decodeWord 0b1001000000100010 = .op (.bts 0 0x22) ∧
    decodeWord 0b1001001111111111 = .op (.bts 15 0x3F) ∧ decodeWord 0b1010000001110001 = .op (.btc 1 0x31) ∧
    decodeWord 0b1011000000001000 = .op (.spin 8) := by
  decide

theorem test_decode_illegal : decodeWord 0x0000 = .illegal .systemFunction ∧ decodeWord 0x0005 = .illegal .systemFunction ∧
    decodeWord 0x0041 = .illegal .systemOperandA ∧ decodeWord 0x3601 = .illegal .operandB ∧
    decodeWord 0x8040 = .illegal .operandA ∧ decodeWord 0x9400 = .illegal .bitIndex ∧
    decodeWord 0xB040 = .illegal .operandA ∧ decodeWord 0xC001 = .illegal .operandB ∧
    decodeWord 0xD000 = .illegal .reservedOpcode ∧ decodeWord 0xE123 = .illegal .reservedOpcode ∧
    decodeWord 0xFFFF = .illegal .reservedOpcode := by
  decide

theorem test_decode_bytes_little_endian : decode [0x2A, 0x80] = .op (.jmp 0x2A) ∧ decode [0x2A] = .illegal .truncated := by
  decide

theorem test_table_word : decodeTableWord 16 0x802A = some (.jmp 0x2A) ∧ decodeTableWord 16 0 = none := by
  decide

/-! ### Field writes (section 2.2) -/

theorem test_F1_wri_oc1m : check (holding 0x12C6 b0) (fun t => t.tim.oc1m == 6 && t.pc == 1) = true := by decide

theorem test_F2_wri_bad_mode : check (holding 0x12C5 b0) (fun t => t.sys.fcause == 5 && t.tim.oc1m == 0 && t.pc == 0) = true := by
  decide

theorem test_F10_wrp_arr : check (holding 0x2241 (strapped 1 1000 b0)) (fun t => t.tim.arr == 1000 && t.tim.arrA == 1000) = true := by
  decide

theorem test_F16_wrp_order : check (holding 0x2409 b0) (fun t => t.sys.fcause == 3) = true ∧
    check (holding 0x21C9 b0) (fun t => t.sys.fcause == 2) = true := by
  decide

theorem test_F18_set_adon : check (holding 0x3600 b0) (fun t => t.adc.adon == 1 && t.adc.adons == 0) = true := by decide

theorem test_F19_set_wide : check (holding 0x3200 b0) (fun t => t.sys.fcause == 4) = true ∧
    check (holding 0x3640 b0) (fun t => t.sys.fcause == 4) = true := by
  decide

theorem test_F21_clr_adon :
    check (holding 0x4600 { b0 with adc := { armedAdc with busy := 1, eoc := 1, dr := 0x123 } })
      (fun t => t.adc.adon == 0 && t.adc.adons == 0 && t.adc.armed == 0 && t.adc.busy == 0 && t.adc.eoc == 1 &&
        t.adc.dr == 0x123) = true := by
  decide

theorem test_F22_clr_hsion : check (holding 0x4040 b0) (fun t => t.clk.hsion == 0 && t.clk.hsirdy == 0) = true := by decide

theorem test_F23_inc_wraps : check (holding 0x5DC0 { b0 with sh := { b0.sh with ms := 0xFFFFFFFF } }) (fun t => t.sh.ms == 0) = true := by
  decide

theorem test_F25_inc_mode : check (holding 0x52C0 b0) (fun t => t.sys.fcause == 5 && t.tim.oc1m == 0) = true := by decide

/-! ### Loads and moves (section 2.3) -/

/-- The start of vectors M1 to M7. -/
def m1 : State := { b0 with adc := { b0.adc with eoc := 1, adon := 1, adons := 1, armed := 1, dr := 0xABC } }

theorem test_M1_ldt_status : check (holding 0xCA40 m1) (fun t => t.sys.latch == 0x000D && t.adc.eoc == 1) = true := by decide

theorem test_M2_ldt_data : check (holding 0xC900 m1) (fun t => t.sys.latch == 0x0ABC && t.adc.eoc == 0) = true := by decide

theorem test_M5_mov : check (holding 0x6EE4 m1) (fun t => t.sh.regres == 0x0ABC && t.adc.eoc == 0 && t.adc.dr == 0x0ABC) = true := by
  decide

theorem test_M6_mov_narrow : check (holding 0x6E24 m1) (fun t => t.sys.fcause == 5 && t.adc.eoc == 1 && t.sh.bg == 0) = true := by
  decide

/-! ### Control (section 2.4) -/

theorem test_X1_wait : check (holding 0x7641 b0) (fun t => t.pc == 0) = true ∧
    check (holding 0x7641 m1) (fun t => t.pc == 1) = true := by
  decide

theorem test_X4_wait_data : check (holding 0x7905 m1) (fun t => t.pc == 0 && t.adc.eoc == 0) = true := by decide

theorem test_X5_jmp : check (holding 0x802A b0) (fun t => t.pc == 0x2A) = true := by decide

theorem test_X6_bts : check (holding 0x9022 { b0 with sys := { b0.sys with latch := 0x000D } }) (fun t => t.pc == 0x22) = true ∧
    check (holding 0x9062 { b0 with sys := { b0.sys with latch := 0x000D } }) (fun t => t.pc == 1) = true := by
  decide

theorem test_X8_btc : check (holding 0xA071 { b0 with sys := { b0.sys with latch := 0x0006 } }) (fun t => t.pc == 1) = true ∧
    check (holding 0xA071 { b0 with sys := { b0.sys with latch := 0x0004 } }) (fun t => t.pc == 0x31) = true := by
  decide

theorem test_X12_spin : check (holding 0xB008 b0) (fun t => t.pc == 1) = true ∧
    check (holding 0xB009 b0) (fun t => t.sys.fcause == 3 && t.pc == 0) = true := by
  decide

theorem test_X13_nop_wraps : check (holding 0x0001 { b0 with pc := 0x3F }) (fun t => t.pc == 0) = true := by decide

/-! ### System operations, interrupts, other agents (sections 2.5 to 2.9) -/

theorem test_Y1_halt : check (holding 0x0002 b0) (fun t => t.pc == 0) = true := by decide

theorem test_Y3_ei : check (holding 0x0004 b0) (fun t => t.sys.ie == 1 && t.pc == 1) = true ∧
    check (holding 0x0004 { b0 with sys := { b0.sys with inh := 1 } }) (fun t => t.sys.fcause == 6 && t.sys.ie == 0) = true := by
  decide

theorem test_Y4_iret :
    check (holding 0x0003 { b0 with sys := { b0.sys with inh := 1, epc := 0x1B } })
      (fun t => t.pc == 0x1B && t.sys.ie == 1 && t.sys.inh == 0) = true ∧
    check (holding 0x0003 b0) (fun t => t.sys.fcause == 6) = true := by
  decide

theorem test_I2_tick_first :
    check { b0 with pc := 0x1B, sys := { b0.sys with ie := 1, tickp := 1 }, adc := { b0.adc with irqen := 1, eoc := 1 } }
      (fun t => t.pc == 0x38 && t.sys.epc == 0x1B && t.sys.ie == 0 && t.sys.inh == 1 && t.sys.tickp == 0) = true := by
  decide

theorem test_T1_wrap_starts_conversion :
    check (due .timerTick { run0 with tim := { pwm with cnt := 3, pscCnt := 1 } })
      (fun t => t.tim.cnt == 0 && t.adc.busy == 1 && t.adc.convCh == 5 && t.adc.convBank == 1) = true := by
  decide

theorem test_T6_falling_edge :
    check (due .timerTick { run0 with tim := { pwm with cnt := 1, pscCnt := 1 }, adc := { armedAdc with exten := 2 } })
      (fun t => t.tim.cnt == 2 && t.adc.busy == 1) = true ∧
    check (due .timerTick { run0 with tim := { pwm with cnt := 1, pscCnt := 1 } }) (fun t => t.adc.busy == 0) = true := by
  decide

theorem test_V13_single_shot :
    check (due (.adcComplete 5) { run0 with adc := { armedAdc with cont := 0, busy := 1 } })
      (fun t => t.adc.dr == 5 && t.adc.eoc == 1 && t.adc.busy == 0 && t.adc.armed == 0) = true := by
  decide

theorem test_V15_injected :
    check (due (.envInjected 1 2 3 4) run0)
      (fun t => t.adc.jdr1 == 1 && t.adc.jdr2 == 2 && t.adc.jdr3 == 3 && t.adc.jdr4 == 4 && t.adc.jeoc == 1) = true := by
  decide

theorem test_phase_table : phase b0 = 1 ∧ phase { b0 with tim := pwm } = 2 ∧ phase run0 = 4 ∧
    phase { run0 with adc := { armedAdc with busy := 1, eoc := 1 } } = 5 ∧
    phase { run0 with adc := { armedAdc with eoc := 1 } } = 6 ∧
    phase { run0 with adc := { armedAdc with jeoc := 1 } } = 4 ∧
    phase { run0 with clk := { run0.clk with sws := 1 } } = 0 := by
  decide

theorem test_K7_prescaler_and_phase : check (holding 0x10C3 b0) (fun t => t.clk.ppre2 == 3 && phase t == 0) = true ∧
    check (holding 0x10C0 { b0 with clk := { b0.clk with ppre2 := 3 } }) (fun t => phase t == 1) = true := by
  decide

/-- R531: a gated read, `EI` in a routine, `IRET` in main context and a start before ready break the order; an operation
that faults before its access does not access. -/
theorem test_order_broken : keepsOrder (holding 0xCA40 State.reset) = false ∧
    keepsOrder (holding 0x50C0 b0) = true ∧ keepsOrder (holding 0x5880 { b0 with clk := { b0.clk with adcen := 0 } }) = true ∧
    accessesGated (holding 0x57C0 { b0 with clk := { b0.clk with adcen := 0 } }) = true ∧
    keepsOrder (holding 0x0004 { b0 with sys := { b0.sys with inh := 1 } }) = false ∧
    keepsOrder (holding 0x0003 b0) = false ∧ keepsOrder (holding 0x3840 b0) = false := by
  decide

theorem test_first_word_of_reset : check State.reset (fun t => t.pc == 1) = true ∧
    check (State.reset.withFetchWord 16 0x802A) (fun t => t.pc == 0x2A) = true := by
  decide

/-! ### Witnesses: the hypotheses of the statements, clause by clause and at the ends of the ranges -/

/-- `B0` parked at a `HALT` with interrupts enabled. -/
def parked : State := { holding 0x0002 b0 with sys := { b0.sys with ie := 1 } }

/-- A handler context with the tick pending. -/
def inHandler : State := { b0 with sys := { b0.sys with inh := 1, tickp := 1, epc := 0x1B } }

/-- A sequencer that stopped with ILLOP. -/
def stopped : State := { b0 with sys := { b0.sys with fcause := 1 } }

/-- `B0` with the timer and the converter gated and the clock not stable. -/
def unclocked : State := { b0 with clk := ⟨1, 1, 0, 0, 0, 0⟩ }

theorem witness_DecodeEncodeAgree : (Instr.btc 15 0x3F).wellFormed = true ∧ decodeWord 0xA3FF = .op (.btc 15 0x3F) ∧
    Field.ofId 0x01 = some .clkHsion ∧ Field.clkHsion.width = 1 := by
  decide

theorem witness_IllegalWordsFault : sequencerTurn b0 = true ∧ faulted b0 = false ∧ interruptTakeable b0 = false ∧
    fetch (holding 0x9400 b0) = wordBytes 0x9400 ∧ decodeWord 0x9400 = .illegal .bitIndex ∧
    (∃ i, decodeWord 0x93FF = .op i) ∧ (0x1C : Addr).toNat = 0x1C ∧ (0x3F : Addr).toNat = 0x3F := by
  refine ⟨by decide, by decide, by decide, by decide, by decide, ⟨_, rfl⟩, by decide, by decide⟩

theorem witness_StepRunsDecodedOperation : faulted (holding 0x802A b0) = false ∧
    interruptTakeable (holding 0x802A b0) = false ∧ decode (fetch (holding 0x802A b0)) = .op (.jmp 0x2A) ∧
    (holding 0x802A b0).agenda = [] ∧ (due .seq (holding 0x802A b0)).agenda = .seq :: [] ∧
    decode (fetch (due .seq (holding 0x802A b0))) = .op (.jmp 0x2A) ∧
    (let s := due .seq (holding 0x802A b0);
      sequencerTurn s = true ∧ s.sys.fcause = 0 ∧ s.sys.ie = 0 ∧ decode (fetch s) = .op (.jmp 0x2A)) ∧
    (let s : State := { parked with adc := { b0.adc with eoc := 1, jeoc := 1 } };
      sequencerTurn s = true ∧ s.sys.fcause = 0 ∧ decode (fetch s) = .op .halt ∧ s.sys.ie = 1 ∧ s.sys.tickp = 0 ∧
        s.adc.irqen = 0) ∧
    (let s : State := { parked with adc := { b0.adc with irqen := 1 } };
      s.sys.ie = 1 ∧ s.sys.tickp = 0 ∧ s.adc.irqen = 1 ∧ s.adc.eoc = 0 ∧ s.adc.jeoc = 0) := by
  decide

theorem witness_LoadedWordRuns : State.reset.imem.wf = true ∧ (0x3F : Addr) ≠ State.reset.pc ∧
    faulted State.reset = false ∧ interruptTakeable State.reset = false :=
  ⟨standardImage_wf, by decide, by decide, by decide⟩

theorem witness_FaultsArePrecise : b0.sys.fcause = 0 ∧ ∃ t, step (holding 0x0000 b0) = .next t ∧ t.sys.fcause ≠ 0 :=
  ⟨by decide, _, rfl, by decide⟩

theorem witness_FaultedSequencerIsStuck : stopped.sys.fcause ≠ 0 ∧ stopped.agenda = [] ∧
    resetTurn (due .envTick stopped) = false ∧ (∃ t, step (due .envTick stopped) = .next t) ∧
    sequencerTurn (due .seq stopped) = true ∧ (∃ t, step (due .seq stopped) = .next t) ∧
    (due .timerTick stopped).agenda = .timerTick :: [] ∧ AgentStep.timerTick ≠ .seq :=
  ⟨by decide, by decide, by decide, ⟨_, rfl⟩, by decide, ⟨_, rfl⟩, by decide, by decide⟩

theorem witness_InterruptEntrySavesAndVectors :
    (let s : State := { parked with sys := { parked.sys with tickp := 1 } };
      sequencerTurn s = true ∧ s.sys.fcause = 0 ∧ s.sys.ie = 1 ∧ s.sys.tickp = 1) ∧
    (let s : State := { parked with adc := { b0.adc with irqen := 1, eoc := 1 } };
      sequencerTurn s = true ∧ s.sys.fcause = 0 ∧ s.sys.ie = 1 ∧ s.sys.tickp = 0 ∧ s.adc.irqen = 1 ∧ s.adc.eoc = 1) ∧
    (let s : State := { parked with adc := { b0.adc with irqen := 1, jeoc := 1 }, agenda := [.seq] };
      sequencerTurn s = true ∧ s.sys.fcause = 0 ∧ s.sys.ie = 1 ∧ s.sys.tickp = 0 ∧ s.adc.irqen = 1 ∧ s.adc.jeoc = 1) := by
  decide

theorem witness_TickBeforeConverter :
    (let s := { parked with sys := { parked.sys with tickp := 1 }, adc := { b0.adc with irqen := 1, eoc := 1 } };
      sequencerTurn s = true ∧ s.sys.fcause = 0 ∧ s.sys.ie = 1 ∧ s.sys.tickp = 1 ∧ adcIrq s = true) ∧
    (let s := { inHandler with
        sys := { inHandler.sys with tickp := 0 }, adc := { b0.adc with irqen := 1, jeoc := 1 }, agenda := [.seq] };
      sequencerTurn s = true ∧ s.sys.fcause = 0 ∧ s.sys.inh = 1 ∧ s.sys.tickp = 0 ∧ adcIrq s = true) := by
  decide

theorem witness_IretReturnsFromHandler :
    (sequencerTurn inHandler = true ∧ inHandler.sys.fcause = 0 ∧ inHandler.sys.inh = 1 ∧ inHandler.sys.tickp = 1) ∧
    (let s : State := { inHandler with
        sys := { inHandler.sys with tickp := 0 }, adc := { b0.adc with irqen := 1, eoc := 1 }, agenda := [.seq] };
      sequencerTurn s = true ∧ s.sys.fcause = 0 ∧ s.sys.inh = 1 ∧ adcIrq s = true) ∧ b0.sys.inh = 0 := by
  decide

theorem witness_EiEnablesInMainContext : b0.sys.inh = 0 ∧ (parked.sys.inh = 0 ∧ parked.sys.ie = 1) ∧ inHandler.sys.inh = 1 ∧
    (let s : State := { b0 with sys := { b0.sys with tickp := 1 } };
      sequencerTurn s = true ∧ s.sys.fcause = 0 ∧ s.sys.inh = 0 ∧ s.sys.tickp = 1) ∧
    (let s : State := { b0 with adc := { b0.adc with irqen := 1, jeoc := 1 }, agenda := [.seq] };
      sequencerTurn s = true ∧ s.sys.fcause = 0 ∧ s.sys.inh = 0 ∧ adcIrq s = true) ∧
    ∃ t, exec .nop parked = .next t ∧ parked.sys.ie = 1 :=
  ⟨by decide, by decide, by decide, by decide, by decide, _, rfl, by decide⟩

theorem witness_InterruptStateInvariant : ContextLegal b0 ∧ b0.sys.ie = 0 ∧ b0.sys.inh = 0 ∧
    (∃ t, step (holding 0x0001 b0) = .next t) ∧ executes (holding 0x0001 b0) ≠ some .ei :=
  ⟨by simp [ContextLegal, b0, State.launch], by decide, by decide, ⟨_, rfl⟩, by decide⟩

theorem witness_SavedAddressAndTickPending :
    (∃ t, step { parked with pc := 0x1B, sys := { parked.sys with tickp := 1 } } = .next t ∧ t.sys.epc ≠ parked.sys.epc ∧
      parked.sys.tickp = 0 ∧ t.sys.tickp = 0) ∧
    (∃ t, step (due .envTick b0) = .next t ∧ (due .envTick b0).sys.tickp = 0 ∧ t.sys.tickp = 1) ∧
    (∃ t, step (due (.rst .pll 1) inHandler) = .next t ∧ t.sys.epc ≠ inHandler.sys.epc ∧ inHandler.sys.tickp = 1 ∧
      t.sys.tickp = 0) :=
  ⟨⟨_, rfl, by decide, by decide, by decide⟩, ⟨_, rfl, by decide, by decide⟩, ⟨_, rfl, by decide, by decide, by decide⟩⟩

theorem witness_TickRequestsCoalesce : (due .envTick stopped).agenda = .envTick :: [] ∧
    (due .envTick inHandler).sys.tickp = 1 := by
  decide

theorem witness_LegalContentsKept : LegalState State.reset ∧ ∃ t, step State.reset = .next t :=
  ⟨⟨by decide, by decide, by decide, by decide, by decide, by decide, by decide, by decide, by decide, standardImage_wf⟩,
    _, rfl⟩

theorem witness_LaunchIsLegal : standardImage.wf = true := standardImage_wf

theorem witness_ConverterStatesKept : ConverterLegal run0 ∧ keepsOrder (due (.adcComplete 0xFFF) run0) = true ∧
    (∃ t, step (due (.adcComplete 0xFFF) run0) = .next t) ∧ keepsOrder (holding 0x4600 run0) = true ∧
    (∃ t, step (holding 0x4600 run0) = .next t) ∧ writesGated (holding 0x4600 run0) = false ∧
    reachesUndefined (holding 0x4600 run0) = false :=
  ⟨⟨by decide, by decide, by decide⟩, by decide, ⟨_, rfl⟩, by decide, ⟨_, rfl⟩, by decide, by decide⟩

theorem witness_StoreAndStrapsConstant : ∃ t, step State.reset = .next t := ⟨_, rfl⟩

theorem witness_LatchWrittenOnlyByLdt : (∃ t, step (holding 0xCA40 run0) = .next t ∧ t.sys.latch ≠ run0.sys.latch) ∧
    (∃ t, step (due (.rst .external 0) { b0 with sys := { b0.sys with latch := 0xFFFF } }) = .next t ∧
      t.sys.latch ≠ 0xFFFF) :=
  ⟨⟨_, rfl, by decide⟩, ⟨_, rfl, by decide⟩⟩

theorem witness_ControlTransferIsOnlyThis : b0.sys.fcause = 0 ∧ (∃ t, exec (.jmp 0x3F) b0 = .next t) ∧
    (∃ t, exec .nop { b0 with pc := 0x3F } = .next t) ∧ (∃ t, exec (.spin 9) b0 = .next t ∧ t.sys.fcause ≠ 0) :=
  ⟨by decide, ⟨_, rfl⟩, ⟨_, rfl⟩, _, rfl, by decide⟩

theorem witness_SystemClockMovesOnlyToInternal : (due .envSysclkInternal unclocked).agenda = .envSysclkInternal :: [] ∧
    (∃ t, step (due .envSysclkInternal unclocked) = .next t ∧ t.clk.sws ≠ unclocked.clk.sws) ∧
    (∃ t, step (due (.rst .pll 0) b0) = .next t ∧ t.clk.sws ≠ b0.clk.sws) :=
  ⟨by decide, ⟨_, rfl, by decide⟩, ⟨_, rfl, by decide⟩⟩

theorem witness_OscillatorReadyOnlyRises :
    ((due .envOscReady unclocked).agenda = .envOscReady :: [] ∧ (due .envOscReady unclocked).clk.hsion = 1) ∧
    (let s := due .envOscReady { b0 with clk := ⟨0, 0, 0, 0, 0, 0⟩ }; s.agenda = .envOscReady :: [] ∧ s.clk.hsion = 0) ∧
    (let s := due .envOscReady unclocked;
      ∃ t, step s = .next t ∧ resetTurn s = false ∧ s.clk.hsirdy = 0 ∧ t.clk.hsirdy = 1) ∧
    (let s := holding 0x4040 b0;
      ∃ t, step s = .next t ∧ resetTurn s = false ∧ s.clk.hsirdy = 1 ∧ t.clk.hsirdy = 0) :=
  ⟨by decide, by decide, ⟨_, rfl, by decide, by decide, by decide⟩, ⟨_, rfl, by decide, by decide, by decide⟩⟩

theorem witness_OscillatorEnableWrite : (1 : BusWord).toNat < 2 ∧ b0.clk.hsion = 1 := by decide

theorem witness_GateBitWrites : clkStable b0.clk = true ∧
    (let s : State := { unclocked with clk := { unclocked.clk with timen := 1, adcen := 1 } };
      s.clk.timen = 1 ∧ s.clk.adcen = 1 ∧ clkStable s.clk = false) := by
  decide

theorem witness_StableClockStaysStable : (∃ t, step (holding 0x3040 b0) = .next t) ∧
    clkStable (holding 0x3040 b0).clk = true ∧ resetTurn (holding 0x3040 b0) = false ∧
    (executes (holding 0x3040 b0)).bind (fun i => writes i (holding 0x3040 b0)) = some (.clkHsion, 1) :=
  ⟨⟨_, rfl⟩, by decide, by decide, by decide⟩

theorem witness_FieldWriteOperationsComplete : Field.ofId 0x3F = some .shInjres4 ∧ Field.shInjres4.writable = true ∧
    Field.shInjres4.legal ((63 : BitVec 6).setWidth 32) = true ∧ (8 : StrapId).toNat < 9 ∧
    Field.shInjres4.legal ((b0.param[8]).setWidth 32) = true ∧
    Field.ofId 0x01 = some .clkHsion ∧ Field.clkHsion.writable = true ∧ Field.clkHsion.width = 1 ∧
    Field.shInjres4.cls ≠ .cmd ∧ Field.shInjres4.cls ≠ .flag ∧ gated .shInjres4 b0 = false ∧
    Field.shInjres4.legal (BitVec.ofNat 32 (((value .shInjres4 b0).toNat + 1) % 2 ^ Field.shInjres4.width)) = true ∧
    Field.ofId 0x00 = some .clkSws ∧ gated .clkSws b0 = false ∧ Field.shInjres4.legal (value .clkSws b0) = true := by
  decide

theorem witness_PlainWriteStoresAndKeepsOthers : Field.shMs.plain = true ∧ Field.shMs.legal 0xFFFFFFFF = true ∧
    gated .shMs b0 = false ∧ Field.timPsc.plain = true ∧ Field.timPsc.legal 0xFFFF = true ∧ gated .timPsc b0 = false ∧
    Field.adcL.plain = true ∧ Field.adcL.legal 0 = true ∧ gated .adcL b0 = false := by
  decide

theorem witness_WritesReachOnlyTheirGroup : Field.timUg.writable = true ∧ Field.timUg.legal 1 = true ∧
    undefinedWrite .timUg 1 run0 = false ∧ Field.timUg.group = .tim ∧ Field.clkTimen.writable = true ∧
    Field.clkTimen.legal 1 = true ∧ undefinedWrite .clkTimen 1 b0 = false ∧ Field.clkTimen.group ≠ .tim ∧
    Field.shMs.group ≠ .clk ∧ Field.shMs.group ≠ .adc ∧ Field.adcL.group ≠ .sh ∧ undefinedWrite .shMs 0xFFFFFFFF b0 = false := by
  decide

theorem witness_GatedReadIsAnyValue : gated .timOc1m State.reset = true ∧ Field.ofId 0x0B = some .timOc1m ∧
    Field.timOc1m.cls = .rw ∧ Field.ofId 0x37 = some .shMs ∧ Field.shMs.writable = true ∧
    gated .adcDr State.reset = true ∧ Field.ofId 0x24 = some .adcDr := by
  decide

theorem witness_GatedWriteIsAnyLegalValue : gated .timUg State.reset = true ∧ Field.timUg.writable = true ∧
    Field.timUg.cls = .cmd ∧ gated .adcEoc State.reset = true ∧ Field.adcEoc.writable = true ∧ Field.adcEoc.cls ≠ .cmd ∧
    gated .adcJeoc State.reset = true ∧ Field.adcJeoc.writable = true ∧ gated .adcSmpx State.reset = true ∧
    Field.adcSmpx.writable = true ∧ (31 : Fin 32).val ≠ State.reset.adc.sq1.toNat ∧ gated .timOc1m State.reset = true ∧
    Field.timOc1m.writable = true ∧ gated .timPsc State.reset = true ∧ Field.timPsc.writable = true := by
  decide

theorem witness_UnassignedFieldFaults : Field.ofId 0x06 = none ∧ Field.ofId 0x07 = none ∧ Field.ofId 0x12 = none ∧
    Field.ofId 0x17 = none ∧ Field.ofId 0x2D = none ∧ Field.ofId 0x2F = none := by
  decide

theorem witness_ChecksRunInOrder : Field.ofId 0x10 = some .timCnt ∧ Field.timCnt.writable = false ∧
    Field.ofId 0x08 = some .timPsc ∧ Field.timPsc.width ≠ 1 ∧ Field.timCnt.cls ≠ .rw ∧ Field.timCnt.cls ≠ .rwA ∧
    Field.ofId 0x0B = some .timOc1m ∧ Field.timOc1m.cls = .rw ∧ gated .timOc1m b0 = false ∧
    Field.timOc1m.legal (BitVec.ofNat 32 (((value .timOc1m b0).toNat + 1) % 2 ^ Field.timOc1m.width)) = false ∧
    Field.ofId 0x01 = some .clkHsion ∧ Field.timOc1m.writable = true ∧ gated .clkHsion b0 = false ∧
    Field.timOc1m.legal (value .clkHsion b0) = false := by
  decide

theorem witness_IncrementWraps : b0.clk.timen = 1 ∧ b0.tim.oc1m = 0 ∧ Field.ofId 0x18 = some .adcAdon ∧
    Field.adcAdon.width = 1 ∧ Field.adcAdon.cls = .rw ∧ gated .adcAdon b0 = false ∧
    undefinedWrite .adcAdon (if value .adcAdon b0 = 0 then 1 else 0) b0 = false ∧ Field.ofId 0x04 = some .clkTimen ∧
    Field.clkTimen.width = 1 ∧ Field.clkTimen.cls = .rw ∧ gated .clkTimen b0 = false ∧
    undefinedWrite .clkTimen (if value .clkTimen b0 = 0 then 1 else 0) b0 = false := by
  decide

theorem witness_LdtLoadsLatch : Field.ofId 0x24 = some .adcDr ∧ gated .adcDr b0 = false ∧ Field.ofId 0x37 = some .shMs ∧
    gated .shMs State.reset = false ∧ b0.clk.adcen = 1 := by
  decide

theorem witness_MovTransfersResult : m1.clk.adcen = 1 ∧ 1 < m1.adc.dr.toNat ∧ Field.ofId 0x08 = some .timPsc ∧
    Field.timPsc.plain = true ∧ gated .timPsc run0 = false ∧ Field.timPsc.legal (value .timPsc run0) = true ∧
    Field.ofId 0x37 = some .shMs ∧ Field.shMs.plain = true ∧ gated .shMs State.reset = false ∧
    Field.shMs.legal (value .shMs State.reset) = true ∧ run0.clk.timen = 1 := by
  decide

/-- R202's `MOV f, f` by R293's pseudocode (log 26): `TIM.ARR` onto itself reloads an active period that differs. -/
theorem test_mov_arr_to_itself :
    check (holding 0x6249 { b0 with tim := { pwm with arpe := 0, arrA := 9 } })
      (fun t => t.tim.arr == 4 && t.tim.arrA == 4) = true ∧
    check (holding 0x6249 { b0 with tim := { pwm with arrA := 9 } }) (fun t => t.tim.arrA == 9) = true := by
  decide

theorem witness_WaitPollsOnce : Field.ofId 0x24 = some .adcDr ∧ gated .adcDr b0 = false ∧
    gated .adcDr State.reset = true ∧ Field.ofId 0x18 = some .adcAdon ∧ 2 ^ Field.adcAdon.width ≤ (2 : BitVec 6).toNat := by
  decide

theorem witness_JumpsAndBranches :
    (let s : State := { b0 with sys := { b0.sys with latch := 0x8000 } };
      (15 : BitVec 6).toNat ≤ 15 ∧ s.sys.latch.toNat.testBit (15 : BitVec 6).toNat = true ∧
        s.sys.latch.toNat.testBit (0 : BitVec 6).toNat = false) ∧ 15 < (16 : BitVec 6).toNat := by
  decide

theorem witness_SpinOnlyAdvances : (8 : StrapId).toNat ≤ 8 ∧ 8 < (9 : StrapId).toNat := by decide

theorem witness_NopOnlyAdvances : ∃ t, exec .nop { b0 with pc := 0x3F } = .next t := ⟨_, rfl⟩

theorem witness_HaltParks : (sequencerTurn parked = true ∧ quiescent parked = true) ∧
    (sequencerTurn (due .seq parked) = true ∧ quiescent (due .seq parked) = true) ∧
    (let s : State := { parked with sys := { parked.sys with tickp := 1 } };
      sequencerTurn s = true ∧ faulted s = false ∧ decode (fetch s) = .op .halt ∧ interruptTakeable s = true) := by
  decide

theorem witness_TimerPreloadWrites : (8 : StrapId).toNat < 9 ∧ b0.clk.timen = 1 ∧ b0.tim.arpe = 0 ∧ run0.clk.timen = 1 ∧
    run0.tim.arpe = 1 := by
  decide

theorem witness_OutputMovingWrites : run0.clk.timen = 1 ∧ run0.tim.oc1pe = 1 ∧ run0.tim.arpe = 1 ∧
    b0.tim.oc1m = 0 ∧ value .timOc1ref run0 = 1 := by
  decide

theorem witness_EdgeStartsConversion :
    startsConversion (oc1ref ({ pwm with cnt := 3 } : Tim)) (oc1ref pwm) { run0 with tim := { pwm with cnt := 3 } } ∧
    startsConversion (oc1ref pwm) (oc1ref ({ pwm with cnt := 2 } : Tim)) { run0 with adc := { armedAdc with exten := 2 } } ∧
    ¬ startsConversion (oc1ref pwm) (oc1ref ({ pwm with cnt := 2 } : Tim)) run0 := by
  unfold startsConversion
  decide

theorem witness_TimerTickCounts :
    ((due .timerTick b0).agenda = .timerTick :: [] ∧ ¬(b0.clk.timen = 1 ∧ b0.tim.cen = 1)) ∧
    ((due .timerTick run0).agenda = .timerTick :: [] ∧ run0.clk.timen = 1 ∧ run0.tim.cen = 1) ∧
    pwm.pscCnt.toNat < pwm.pscA.toNat ∧
    (let t : Tim := { pwm with pscCnt := 1, arrA := 0 }; t.pscA.toNat ≤ t.pscCnt.toNat ∧ t.arrA = 0) ∧
    (let t : Tim := { pwm with pscCnt := 1, cnt := 3 };
      t.pscA.toNat ≤ t.pscCnt.toNat ∧ t.arrA ≠ 0 ∧ t.arrA.toNat ≤ t.cnt.toNat + 1) ∧
    (let t : Tim := { pwm with pscCnt := 1, cnt := 2 };
      t.pscA.toNat ≤ t.pscCnt.toNat ∧ t.arrA ≠ 0 ∧ t.cnt.toNat + 1 < t.arrA.toNat) := by
  decide

theorem witness_PrescalerDividesTicks : pwm.pscCnt = 0 ∧ 1 ≤ pwm.pscA.toNat ∧ pwm.cnt = 0 ∧ pwm.psc = pwm.pscA ∧
    pwm.arr = pwm.arrA ∧ pwm.ccr1 = pwm.ccrA ∧ pwm.arrA ≠ 0 := by
  decide

theorem witness_OneTriggerEdgePerPeriod :
    (pwm.oc1m = 6 ∧ pwm.pscCnt = 0 ∧ pwm.cnt = 0 ∧ pwm.psc = pwm.pscA ∧ pwm.arr = pwm.arrA ∧ pwm.ccr1 = pwm.ccrA ∧
      0 < pwm.ccrA.toNat ∧ pwm.ccrA.toNat < pwm.arrA.toNat) ∧
    (let t : Tim := { pwm with ccr1 := 4, ccrA := 4 };
      t.ccr1 = t.ccrA ∧ t.arrA.toNat ≤ t.ccrA.toNat ∧ t.arrA ≠ 0) ∧
    (let t : Tim := { pwm with ccr1 := 0, ccrA := 0 }; t.ccr1 = t.ccrA ∧ t.ccrA = 0) ∧
    (let t : Tim := { pwm with arr := 0, arrA := 0 }; t.arr = t.arrA ∧ t.arrA = 0) := by
  decide

/-- A converter that is enabled and not yet ready. -/
def enabling : State := { b0 with adc := { b0.adc with adon := 1 } }

theorem witness_ReadyOnlyByConverter : (due .adcReady enabling).agenda = .adcReady :: [] ∧ enabling.clk.adcen = 1 ∧
    enabling.adc.adon = 1 ∧ enabling.adc.adons = 0 ∧ b0.adc.adon ≠ 1 ∧
    (∃ t, step (due .adcReady enabling) = .next t ∧ reachesUndefined (due .adcReady enabling) = false ∧ t.adc.adons = 1) ∧
    (let s := holding 0x4600 run0;
      ∃ t, step s = .next t ∧ reachesUndefined s = false ∧ resetTurn s = false ∧ s.adc.adons = 1 ∧ t.adc.adons = 0) ∧
    (∃ t, step (holding 0x4140 run0) = .next t ∧ executes (holding 0x4140 run0) = some (.clr 0x05)) :=
  ⟨by decide, by decide, by decide, by decide, by decide, ⟨_, rfl, by decide, by decide⟩,
    ⟨_, rfl, by decide, by decide, by decide, by decide⟩, ⟨_, rfl, by decide⟩⟩

theorem witness_CompletionDeliversResult :
    (let s := due (.adcComplete 0xFFF) { run0 with adc := { armedAdc with busy := 1 } };
      s.agenda = .adcComplete 0xFFF :: [] ∧ s.clk.adcen = 1 ∧ s.adc.busy = 1 ∧ s.adc.cont = 1) ∧
    (let s := due (.adcComplete 0) { run0 with adc := { armedAdc with busy := 1, cont := 0 } };
      s.agenda = .adcComplete 0 :: [] ∧ s.clk.adcen = 1 ∧ s.adc.busy = 1 ∧ s.adc.cont = 0) ∧
    (let s := due (.adcComplete 0) run0;
      s.agenda = .adcComplete 0 :: [] ∧ ¬(s.clk.adcen = 1 ∧ s.adc.busy = 1)) := by
  decide

theorem witness_InjectedResultsArrive :
    ((due (.envInjected 0 1 2 0xFFF) run0).agenda = .envInjected 0 1 2 0xFFF :: [] ∧ run0.clk.adcen = 1 ∧
      run0.adc.adon = 1 ∧ run0.adc.adons = 1) ∧
    ((due (.envInjected 0 1 2 3) b0).agenda = .envInjected 0 1 2 3 :: [] ∧
      ¬(b0.clk.adcen = 1 ∧ b0.adc.adon = 1 ∧ b0.adc.adons = 1)) := by
  decide

theorem witness_ConverterEnableWrite : run0.clk.adcen = 1 := by decide

/-- A run that writes the channel ordinal 5, then the sample time, and stops at an illegal word. -/
def channelRun : State := { b0 with imem := Memory.ofWords [0x17C5, 0x1807] }

theorem channelRun_channelFirst : ChannelFirst channelRun := by
  intro n t ht hw
  match n, ht with
  | 0, ht =>
    obtain rfl : channelRun = t := Option.some.inj ht
    exact absurd hw (by decide)
  | 1, _ => exact ⟨0, by decide, ⟨_, rfl, by decide⟩, fun k u _ hk hu => by
      obtain rfl : k = 0 := by omega
      obtain rfl : channelRun = u := Option.some.inj hu
      decide⟩
  | 2, ht =>
    cases ht
    exact absurd hw (by decide)
  | 3, ht =>
    cases ht
    exact absurd hw (by decide)
  | n + 4, ht => exact absurd (show (none : Option State) = some t from ht) (by simp)

theorem witness_SampleTimeAlias : run0.clk.adcen = 1 ∧ (7 : BusWord).toNat < 8 ∧ (7 : BitVec 6).toNat < 8 ∧
    (∃ t, step channelRun = .next t ∧ reachesUndefined channelRun = false ∧ resetTurn channelRun = false ∧
      t.adc.sq1 ≠ channelRun.adc.sq1) ∧
    ChannelFirst channelRun ∧ (∀ m u, m < 1 → after m channelRun = some u → keepsOrder u = true) ∧
    (∃ t, after 1 channelRun = some t ∧ writesField .adcSmpx t = true) := by
  refine ⟨by decide, by decide, by decide, ⟨_, rfl, by decide, by decide, by decide⟩, channelRun_channelFirst, ?_,
    ⟨_, rfl, by decide⟩⟩
  intro m u hm hu
  obtain rfl : m = 0 := by omega
  obtain rfl : channelRun = u := Option.some.inj hu
  decide

theorem witness_StartCommandArms : (run0.clk.adcen = 1 ∧ run0.adc.adon = 1 ∧ run0.adc.adons = 1 ∧ run0.adc.armed = 1) ∧
    (let s : State := { enabling with adc := { enabling.adc with adons := 1 } };
      s.clk.adcen = 1 ∧ s.adc.adon = 1 ∧ s.adc.adons = 1) ∧ b0.clk.adcen = 1 := by
  decide

theorem witness_CompletionFlagWrites : b0.clk.adcen = 1 := by decide

theorem witness_CompletionFlagsFallOnlyAsStated :
    (∃ t, step (holding 0x6EE4 m1) = .next t ∧ reachesUndefined (holding 0x6EE4 m1) = false ∧
      resetTurn (holding 0x6EE4 m1) = false ∧ m1.adc.eoc = 1 ∧ t.adc.eoc = 0) ∧
    (let s := holding 0x48C0 { b0 with adc := { b0.adc with jeoc := 1 } };
      ∃ t, step s = .next t ∧ reachesUndefined s = false ∧ resetTurn s = false ∧ s.adc.jeoc = 1 ∧ t.adc.jeoc = 0) :=
  ⟨⟨_, rfl, by decide, by decide, by decide, by decide⟩, ⟨_, rfl, by decide, by decide, by decide, by decide⟩⟩

theorem witness_ConversionStartsOnlyByTrigger :
    let s := due .timerTick { run0 with tim := { pwm with cnt := 3, pscCnt := 1 } };
    ∃ t, step s = .next t ∧ reachesUndefined s = false ∧ s.adc.busy = 0 ∧ t.adc.busy = 1 :=
  ⟨_, rfl, by decide, by decide, by decide⟩

theorem witness_UndefinedPointsStayLocal :
    ((∃ t, step (holding 0x3600 b0) = .next t) ∧ keepsOrder (holding 0x3600 b0) = true ∧ b0.sys.fcause ≠ 6) ∧
    (unclocked.clk.timen = 0 ∧ unclocked.clk.adcen = 0 ∧ clkStable unclocked.clk = false) ∧
    (b0.clk.timen = 1 ∧ b0.tim.oc1pe = 0) ∧
    (let s : State := { run0 with tim := { pwm with arpe := 0 } }; s.clk.timen = 1 ∧ s.tim.arpe = 0) ∧
    (b0.clk.adcen = 1 ∧ b0.adc.adon = 0) ∧ (enabling.clk.adcen = 1 ∧ enabling.adc.adons = 0) :=
  ⟨⟨⟨_, rfl⟩, by decide, by decide⟩, by decide⟩

theorem witness_ResetAtAnyTime : (due (.rst .pll 1) stopped).agenda = .rst .pll 1 :: [] ∧
    (due (.rst .internalRC 0) run0).agenda = .rst .internalRC 0 :: [] := by
  decide

theorem witness_ApplicationIsConfined : (due (.appWrite .bg 1) b0).agenda = .appWrite .bg 1 :: [] ∧
    (due (.appWrite .tc 1) b0).agenda = .appWrite .tc 1 :: [] ∧ (due (.appRead .injres4) b0).agenda = .appRead .injres4 :: [] ∧
    (∃ t, step (due (.appWrite .bg 1) b0) = .next t) ∧ executes (due (.appWrite .bg 1) b0) = none ∧
    resetTurn (due (.appWrite .bg 1) b0) = false :=
  ⟨by decide, by decide, by decide, ⟨_, rfl⟩, by decide, by decide⟩

end Sys2Proof.Tests
end

