-- ==== Sys2Proof/Proofs/RunKept.lean ====
section
/-! The run's parameters and the schedule under every update of the model (R10, R95, R101): no operation and no agent
writes the store, a strap or the agenda. -/

namespace Sys2Proof.Machine

theorem RunKept.refl (s : State) : RunKept s s := ⟨rfl, rfl, rfl⟩

theorem RunKept.trans {s t u : State} (hst : RunKept s t) (htu : RunKept t u) : RunKept s u :=
  ⟨htu.imem.trans hst.imem, htu.param.trans hst.param, htu.agenda.trans hst.agenda⟩

/-! ### What the sequencer does -/

theorem advance_runKept (s : State) : RunKept s (advance s) := ⟨rfl, rfl, rfl⟩

theorem jumpTo_runKept (a : Addr) (s : State) : RunKept s (jumpTo a s) := ⟨rfl, rfl, rfl⟩

theorem recordFault_runKept (c : Cause) (s : State) : RunKept s (recordFault c s) := ⟨rfl, rfl, rfl⟩

theorem countDraws_runKept (n : Nat) (s : State) : RunKept s (countDraws n s) := ⟨rfl, rfl, rfl⟩

theorem setLatch_runKept (v : BusWord) (s : State) : RunKept s (setLatch v s) := ⟨rfl, rfl, rfl⟩

theorem interruptReturn_runKept (s : State) : RunKept s (interruptReturn s) := ⟨rfl, rfl, rfl⟩

theorem interruptEntry_runKept (s : State) : RunKept s (interruptEntry s) := by
  unfold interruptEntry
  split <;> exact ⟨rfl, rfl, rfl⟩

theorem putTim_runKept (t : Tim) (s : State) : RunKept s (putTim t s) :=
  ⟨putTim_imem t s, putTim_param t s, putTim_agenda t s⟩

theorem writeField_runKept (x : Field) (v : BusWord) (s : State) : RunKept s (writeField x v s) :=
  ⟨writeField_imem x v s, writeField_param x v s, writeField_agenda x v s⟩

theorem readEffect_runKept (x : Field) (s : State) : RunKept s (readEffect x s) := by
  obtain ⟨-, -, -, -, -, himem, hparam, hagenda, -⟩ := readEffect_kept x s
  exact ⟨himem, hparam, hagenda⟩

/-- A read with its side effect: the draw it may count, then the effect (R110, R111). -/
theorem countDraws_readEffect_runKept (x : Field) (n : Nat) (s : State) :
    RunKept s (readEffect x (countDraws n s)) :=
  (countDraws_runKept n s).trans (readEffect_runKept x _)

/-- The same for the read that an operation makes before its write, if it makes one. -/
theorem readSource_runKept (i : Instr) (n : Nat) (s : State) :
    RunKept s ((readSource i).elim id readEffect (countDraws n s)) := by
  cases readSource i with
  | none => exact countDraws_runKept n s
  | some x => exact countDraws_readEffect_runKept x n s

/-- No operation writes the store, a strap or the agenda: every outcome that `exec_cases` lists is made of updates
that leave them alone. -/
theorem exec_runKept {i : Instr} {s t : State} (h : exec i s = .next t) : RunKept s t := by
  rcases exec_cases h with ⟨c, n, rfl⟩ | ⟨x, v, n, -, rfl⟩ | ⟨_, x, v, n, -, -, rfl⟩ | ⟨_, _, x, n, -, -, rfl | rfl⟩ |
    ⟨-, rfl⟩ | ⟨-, rfl⟩ | ⟨a, -, rfl⟩ | ⟨-, -, rfl⟩ | ⟨-, -, rfl⟩
  · exact (countDraws_runKept n s).trans (recordFault_runKept c _)
  · exact (readSource_runKept i n s).trans <| (writeField_runKept x v _).trans (advance_runKept _)
  · exact (countDraws_readEffect_runKept x n s).trans <| (setLatch_runKept v _).trans (advance_runKept _)
  · exact (countDraws_readEffect_runKept x n s).trans (advance_runKept _)
  · exact countDraws_readEffect_runKept x n s
  · exact RunKept.refl _
  · exact advance_runKept s
  · exact jumpTo_runKept a s
  · exact ⟨rfl, rfl, rfl⟩
  · exact interruptReturn_runKept s

/-! ### What the other agents do -/

theorem envSysclkInternal_runKept (s : State) : RunKept s (envSysclkInternal s) := by
  unfold envSysclkInternal
  split <;> exact ⟨rfl, rfl, rfl⟩

theorem envOscReady_runKept (s : State) : RunKept s (envOscReady s) := by
  unfold envOscReady
  split <;> exact ⟨rfl, rfl, rfl⟩

theorem envTick_runKept (s : State) : RunKept s (envTick s) := ⟨rfl, rfl, rfl⟩

theorem envInjected_runKept (a b c d : Sample) (s : State) : RunKept s (envInjected a b c d s) := by
  unfold envInjected
  split <;> exact ⟨rfl, rfl, rfl⟩

theorem appWrite_runKept (c : AppCell) (v : Bit) (s : State) : RunKept s (appWrite c v s) := by
  cases c <;> exact ⟨rfl, rfl, rfl⟩

theorem timerTick_runKept (s : State) : RunKept s (timerTick s) := by
  unfold timerTick
  split
  · exact putTim_runKept _ s
  · exact RunKept.refl s

theorem adcReady_runKept (s : State) : RunKept s (adcReady s) := by
  unfold adcReady
  split <;> exact ⟨rfl, rfl, rfl⟩

theorem adcComplete_runKept (v : Sample) (s : State) : RunKept s (adcComplete v s) := by
  unfold adcComplete
  split <;> exact ⟨rfl, rfl, rfl⟩

/-- Reset takes the store and the straps over and goes on with the agenda (R522; log 18). -/
theorem resetStep_runKept (src : ClkSource) (osc : Bit) (s : State) : RunKept s (resetStep src osc s) := ⟨rfl, rfl, rfl⟩

/-- No agent other than the sequencer writes the store, a strap or the agenda. -/
theorem agentStep_runKept {e : AgentStep} {s t : State} (he : e ≠ .seq) (h : agentStep e s = .next t) :
    RunKept s t := by
  cases e with
  | seq => exact absurd rfl he
  | envSysclkInternal => cases h; exact envSysclkInternal_runKept s
  | envOscReady => cases h; exact envOscReady_runKept s
  | envTick => cases h; exact envTick_runKept s
  | envInjected a b c d => cases h; exact envInjected_runKept a b c d s
  | appRead c => cases h; exact RunKept.refl s
  | appWrite c v => cases h; exact appWrite_runKept c v s
  | timerTick => cases h; exact timerTick_runKept s
  | adcReady => cases h; exact adcReady_runKept s
  | adcComplete v => cases h; exact adcComplete_runKept v s
  | rst src osc => cases h; exact resetStep_runKept src osc s

/-! ### What a step does -/

/-- A step uses up the agenda's head, if there is one, and otherwise leaves the store, the straps and the agenda
alone. -/
theorem step_runKept {s t : State} (h : step s = .next t) : RunKept { s with agenda := s.agenda.tail } t := by
  rcases step_cases h with ⟨-, rfl⟩ | ⟨_, -, hexec⟩ | ⟨-, -, -, -, rfl⟩ | ⟨-, -, rfl⟩ | ⟨_, -, hne, hagent⟩
  · exact interruptEntry_runKept _
  · exact exec_runKept hexec
  · exact recordFault_runKept .illop _
  · exact RunKept.refl _
  · exact agentStep_runKept hne hagent

/-- Settles O18: every step keeps the run's parameters, once the agenda's head is taken off. -/
theorem storeAndStrapsConstant : Obligations.StoreAndStrapsConstant := by
  unfold Obligations.StoreAndStrapsConstant
  intro s t h
  have hkept := step_runKept h
  exact ⟨hkept.imem, hkept.param, hkept.agenda⟩

end Sys2Proof.Machine
end

/-! Legal contents (R42, R51, R64, R70, R71, R461): the launch state has them, and every update of the model leaves the
fields with restricted values alone or puts a legal value there. -/

namespace Sys2Proof.Machine

/-! ### The contents that `LegalState` constrains -/

/-- The fields that `LegalState` speaks of: those whose legal values are fewer than the values of their width, and the
store. -/
def constrained (s : State) :
    BitVec 2 × BitVec 3 × BitVec 5 × (BitVec 16 × BitVec 16 × BitVec 16 × BitVec 16 × BitVec 16) × BitVec 3 × Memory :=
  (s.clk.sws, s.tim.oc1m, s.adc.seqLen, (s.adc.dr, s.adc.jdr1, s.adc.jdr2, s.adc.jdr3, s.adc.jdr4), s.sys.fcause, s.imem)

/-- Whether a state is legal is a matter of the constrained fields alone. -/
theorem LegalState.of_constrained_eq {s t : State} (h : LegalState s) (heq : constrained t = constrained s) :
    LegalState t := by
  simp only [constrained, Prod.mk.injEq] at heq
  obtain ⟨hsws, hoc1m, hseqLen, ⟨hdr, hjdr1, hjdr2, hjdr3, hjdr4⟩, hfcause, himem⟩ := heq
  exact ⟨hsws ▸ h.sws, hoc1m ▸ h.oc1m, hseqLen ▸ h.seqLen, hdr ▸ h.dr, hjdr1 ▸ h.jdr1, hjdr2 ▸ h.jdr2, hjdr3 ▸ h.jdr3,
    hjdr4 ▸ h.jdr4, hfcause ▸ h.fcause, himem ▸ h.imem⟩

/-- A conversion that an edge starts reaches no constrained field (R365). -/
theorem constrained_putTim (t : Tim) (s : State) : constrained (putTim t s) = constrained { s with tim := t } := by
  rcases putTim_cases t s with h | ⟨h, -⟩
  · rw [h]
  · rw [h]; rfl

/-- A read's side effect reaches no constrained field: it clears `ADC.EOC` (R111). -/
theorem constrained_readEffect (x : Field) (s : State) : constrained (readEffect x s) = constrained s := by
  rcases readEffect_cases x s with h | ⟨-, -, h⟩
  · rw [h]
  · rw [h]; rfl

theorem countDraws_legal (n : Nat) {s : State} (h : LegalState s) : LegalState (countDraws n s) :=
  h.of_constrained_eq rfl

/-! ### The updates of the timer's and the converter's state -/

theorem putTim_legal {s : State} (h : LegalState s) {t : Tim} (ht : t.oc1m = 0 ∨ t.oc1m = 6) :
    LegalState (putTim t s) := by
  have hwith : LegalState { s with tim := t } := { h with oc1m := ht }
  exact hwith.of_constrained_eq (constrained_putTim t s)

/-- The timer's own updates keep the output mode, so they keep it legal. -/
theorem putTim_legal_of_oc1m_eq {s : State} (h : LegalState s) {t : Tim} (ht : t.oc1m = s.tim.oc1m) :
    LegalState (putTim t s) :=
  putTim_legal h (ht ▸ h.oc1m)

/-- A 12-bit sample in a 16-bit data register (R70, R71). -/
theorem sample_lt (v : Sample) : (v.setWidth 16).toNat < 4096 := by
  rw [BitVec.toNat_setWidth]
  exact lt_of_le_of_lt (Nat.mod_le _ _) v.isLt

@[simp] theorem counterStep_oc1m (t : Tim) : (counterStep t).oc1m = t.oc1m := by
  unfold counterStep
  split
  · rfl
  · split <;> rfl

@[simp] theorem tickTim_oc1m (t : Tim) : (tickTim t).oc1m = t.oc1m := by
  unfold tickTim
  split
  · rfl
  · exact counterStep_oc1m _

/-! ### Field writes -/

/-- A store of a legal value keeps the state legal. Two of the stored fields have fewer legal values than their width
holds: `TIM.OC1M` and `ADC.L`. -/
theorem storeField_legal {x : Field} {v : BusWord} {s : State} (hv : x.legal v = true) (h : LegalState s) :
    LegalState (storeField x v s) := by
  have hlisted := ((Field.legal_iff x v).mp hv).2
  cases x
  case timOc1m =>
    have hmode : v = 0 ∨ v = 6 := of_decide_eq_true hlisted
    refine putTim_legal h (t := { s.tim with oc1m := v.setWidth 3 }) ?_
    rcases hmode with rfl | rfl
    · exact .inl rfl
    · exact .inr rfl
  case adcL =>
    obtain rfl : v = 0 := of_decide_eq_true hlisted
    exact { h with seqLen := rfl }
  all_goals exact h.of_constrained_eq rfl

theorem writeTimen_legal (v : Bit) {s : State} (h : LegalState s) : LegalState (writeTimen v s) := by
  have hgate : LegalState { s with clk := { s.clk with timen := v } } := h.of_constrained_eq rfl
  unfold writeTimen
  split
  · exact countDraws_legal anyTimDraws (putTim_legal hgate (anyMode_legal _))
  · exact hgate

theorem writeAdcen_legal (v : Bit) {s : State} (h : LegalState s) : LegalState (writeAdcen v s) := by
  unfold writeAdcen
  split
  · exact { h with
      seqLen := rfl, dr := anyData_lt _, jdr1 := anyData_lt _, jdr2 := anyData_lt _, jdr3 := anyData_lt _,
      jdr4 := anyData_lt _ }
  · exact h.of_constrained_eq rfl

theorem writeUg_legal (v : Bit) {s : State} (h : LegalState s) : LegalState (writeUg v s) := by
  unfold writeUg
  split
  · exact h
  · split
    · exact countDraws_legal 3 (putTim_legal_of_oc1m_eq h rfl)
    · exact putTim_legal_of_oc1m_eq h rfl

theorem anyStart_legal (k : Nat) {s : State} (h : LegalState s) : LegalState { s with adc := anyStart k s.adc } := by
  unfold anyStart
  split
  · exact h
  · exact { h with dr := anyData_lt _ }

theorem writeSwstart_legal (v : Bit) {s : State} (h : LegalState s) : LegalState (writeSwstart v s) := by
  unfold writeSwstart
  split
  · exact h
  · split
    · exact countDraws_legal 3 (anyStart_legal s.draws h)
    · exact h.of_constrained_eq rfl

theorem writeAdon_legal (v : Bit) {s : State} (h : LegalState s) : LegalState { s with adc := writeAdon v s.adc } := by
  unfold writeAdon
  split <;> exact h.of_constrained_eq rfl

/-- A write of a legal value to a field that is not gated keeps the state legal, at the three `undefined` points too
(log 10, 11, 12). -/
theorem writeOpen_legal {x : Field} {v : BusWord} {s : State} (hv : x.legal v = true) (h : LegalState s) :
    LegalState (writeOpen x v s) := by
  cases x
  case clkTimen => exact writeTimen_legal _ h
  case clkAdcen => exact writeAdcen_legal _ h
  case timUg => exact writeUg_legal _ h
  case adcSwstart => exact writeSwstart_legal _ h
  case adcAdon => exact writeAdon_legal _ h
  case timCcr1 => exact putTim_legal_of_oc1m_eq h rfl
  case clkHsion => exact h.of_constrained_eq rfl
  case timArr => exact h.of_constrained_eq rfl
  case adcEoc => simp only [writeOpen]; split <;> exact h.of_constrained_eq rfl
  case adcJeoc => simp only [writeOpen]; split <;> exact h.of_constrained_eq rfl
  all_goals exact storeField_legal hv h

/-- What a gated write leaves is a legal value (R113), so the state stays legal. -/
theorem writeGated_legal {x : Field} {s : State} (hw : x.writable = true) (h : LegalState s) :
    LegalState (writeGated x s) := by
  unfold writeGated
  split
  · exact h
  · exact countDraws_legal 1 (storeField_legal (anyLegal_legal s.draws hw) h)

theorem writeField_legal {x : Field} {v : BusWord} {s : State} (hw : x.writable = true) (hv : x.legal v = true)
    (h : LegalState s) : LegalState (writeField x v s) := by
  unfold writeField
  split
  · exact writeGated_legal hw h
  · exact writeOpen_legal hv h

/-! ### The sequencer -/

/-- The codes of the causes are 1 to 6 (R461). -/
theorem Cause.code_ne_seven (c : Cause) : c.code ≠ 7 := by
  cases c <;> decide

theorem recordFault_legal (c : Cause) {s : State} (h : LegalState s) : LegalState (recordFault c s) :=
  { h with fcause := c.code_ne_seven }

theorem readEffect_legal (x : Field) (n : Nat) {s : State} (h : LegalState s) :
    LegalState (readEffect x (countDraws n s)) :=
  h.of_constrained_eq (constrained_readEffect x _)

/-- The read that an operation makes before its write, if it makes one. -/
theorem readSource_legal (i : Instr) (n : Nat) {s : State} (h : LegalState s) :
    LegalState ((readSource i).elim id readEffect (countDraws n s)) := by
  cases readSource i with
  | none => exact countDraws_legal n h
  | some x => exact readEffect_legal x n h

theorem interruptEntry_legal {s : State} (h : LegalState s) : LegalState (interruptEntry s) := by
  unfold interruptEntry
  split <;> exact h.of_constrained_eq rfl

/-- Every operation keeps the state legal: of its outcomes, only the recorded cause and the field write reach a
constrained field, and what an operation writes has passed the check of its value (R112, R185). -/
theorem exec_legal {i : Instr} {s t : State} (h : LegalState s) (hexec : exec i s = .next t) : LegalState t := by
  rcases exec_cases hexec with ⟨c, n, rfl⟩ | ⟨x, v, n, hwrites, rfl⟩ | ⟨_, x, v, n, -, -, rfl⟩ |
    ⟨_, _, x, n, -, -, rfl | rfl⟩ | ⟨-, rfl⟩ | ⟨-, rfl⟩ | ⟨a, -, rfl⟩ | ⟨-, -, rfl⟩ | ⟨-, -, rfl⟩
  · exact recordFault_legal c (countDraws_legal n h)
  · obtain ⟨hwritable, hlegal⟩ := writes_spec hwrites
    exact (writeField_legal hwritable hlegal (readSource_legal i n h)).of_constrained_eq rfl
  · exact (readEffect_legal x n h).of_constrained_eq rfl
  · exact (readEffect_legal x n h).of_constrained_eq rfl
  · exact readEffect_legal x n h
  · exact h
  · exact h.of_constrained_eq rfl
  · exact h.of_constrained_eq rfl
  · exact h.of_constrained_eq rfl
  · exact h.of_constrained_eq rfl

/-! ### Reset -/

/-- The code of a clock source is never 3 (R42). -/
theorem ClkSource.code_le (src : ClkSource) : src.code.toNat ≤ 2 := by
  cases src <;> decide

theorem zeroBit_ne_one : (0 : Bit) ≠ 1 := by decide

theorem zeroData_lt : (0 : BitVec 16).toNat < 4096 := by decide

theorem zeroCause_ne_seven : (0 : BitVec 3) ≠ 7 := by decide

theorem launch_legal (src : ClkSource) (osc : Bit) {imem : Memory} (param : Vector (BitVec 16) 9)
    (hwf : imem.wf = true) : LegalState (State.launch src osc imem param) where
  sws := src.code_le
  oc1m := .inl rfl
  seqLen := rfl
  dr := zeroData_lt
  jdr1 := zeroData_lt
  jdr2 := zeroData_lt
  jdr3 := zeroData_lt
  jdr4 := zeroData_lt
  fcause := zeroCause_ne_seven
  imem := hwf

theorem launch_contextLegal (src : ClkSource) (osc : Bit) (imem : Memory) (param : Vector (BitVec 16) 9) :
    ContextLegal (State.launch src osc imem param) := by
  rintro ⟨hie, -⟩
  exact zeroBit_ne_one hie

/-- After reset the converter is Off (R342). -/
theorem launch_converterLegal (src : ClkSource) (osc : Bit) (imem : Memory) (param : Vector (BitVec 16) 9) :
    ConverterLegal (State.launch src osc imem param) where
  ready h := absurd h zeroBit_ne_one
  armed h := absurd h zeroBit_ne_one
  busy h := absurd h zeroBit_ne_one

/-- Settles O16, invariant by invariant; the store of the reset state is the standard image. -/
theorem launchIsLegal : Obligations.LaunchIsLegal := by
  unfold Obligations.LaunchIsLegal
  refine ⟨fun src osc imem param hwf => ?_, launch_legal _ _ _ standardImage_wf⟩
  exact ⟨launch_legal src osc param hwf, launch_contextLegal src osc imem param, launch_converterLegal src osc imem param⟩

/-! ### The other agents -/

theorem envSysclkInternal_legal {s : State} (h : LegalState s) : LegalState (envSysclkInternal s) := by
  unfold envSysclkInternal
  split
  · exact h
  · exact { h with sws := Nat.zero_le 2 }

theorem envOscReady_legal {s : State} (h : LegalState s) : LegalState (envOscReady s) := by
  unfold envOscReady
  split
  · exact h.of_constrained_eq rfl
  · exact h

theorem envInjected_legal (a b c d : Sample) {s : State} (h : LegalState s) : LegalState (envInjected a b c d s) := by
  unfold envInjected
  split
  · exact { h with jdr1 := sample_lt a, jdr2 := sample_lt b, jdr3 := sample_lt c, jdr4 := sample_lt d }
  · exact h

theorem appWrite_legal (c : AppCell) (v : Bit) {s : State} (h : LegalState s) : LegalState (appWrite c v s) := by
  cases c <;> exact h.of_constrained_eq rfl

theorem timerTick_legal {s : State} (h : LegalState s) : LegalState (timerTick s) := by
  unfold timerTick
  split
  · exact putTim_legal_of_oc1m_eq h (tickTim_oc1m s.tim)
  · exact h

theorem adcReady_legal {s : State} (h : LegalState s) : LegalState (adcReady s) := by
  unfold adcReady
  split
  · exact h.of_constrained_eq rfl
  · exact h

theorem adcComplete_legal (v : Sample) {s : State} (h : LegalState s) : LegalState (adcComplete v s) := by
  unfold adcComplete
  split
  · exact { h with dr := sample_lt v }
  · exact h

theorem resetStep_legal (src : ClkSource) (osc : Bit) {s : State} (h : LegalState s) :
    LegalState (resetStep src osc s) :=
  (launch_legal src osc s.param h.imem).of_constrained_eq rfl

theorem agentStep_legal {e : AgentStep} {s t : State} (he : e ≠ .seq) (h : LegalState s)
    (hagent : agentStep e s = .next t) : LegalState t := by
  cases e with
  | seq => exact absurd rfl he
  | envSysclkInternal => cases hagent; exact envSysclkInternal_legal h
  | envOscReady => cases hagent; exact envOscReady_legal h
  | envTick => cases hagent; exact h.of_constrained_eq rfl
  | envInjected a b c d => cases hagent; exact envInjected_legal a b c d h
  | appRead c => cases hagent; exact h
  | appWrite c v => cases hagent; exact appWrite_legal c v h
  | timerTick => cases hagent; exact timerTick_legal h
  | adcReady => cases hagent; exact adcReady_legal h
  | adcComplete v => cases hagent; exact adcComplete_legal v h
  | rst src osc => cases hagent; exact resetStep_legal src osc h

/-- Settles O15, by what a step can do: each of its updates leaves the constrained fields alone or puts a legal value
there. -/
theorem legalContentsKept : Obligations.LegalContentsKept := by
  unfold Obligations.LegalContentsKept
  intro s t h hstep
  have hturn : LegalState { s with agenda := s.agenda.tail } := h.of_constrained_eq rfl
  rcases step_cases hstep with ⟨-, rfl⟩ | ⟨_, -, hexec⟩ | ⟨-, -, -, -, rfl⟩ | ⟨-, -, rfl⟩ | ⟨_, -, hne, hagent⟩
  · exact interruptEntry_legal hturn
  · exact exec_legal hturn hexec
  · exact recordFault_legal .illop hturn
  · exact hturn
  · exact agentStep_legal hne hturn hagent

end Sys2Proof.Machine

/-! The sequencer's own state: who reaches the saved address, the tick's pending bit and the latch (R32, R36, R37), what
an unassigned field id does (R41), and what reset leaves (R93, R523). -/

namespace Sys2Proof.Machine

/-! ### The sequencer's group under what an operation does -/

@[simp] theorem readEffect_sys (x : Field) (s : State) : (readEffect x s).sys = s.sys := by
  obtain ⟨-, -, -, hsys, -⟩ := readEffect_kept x s
  exact hsys

/-- The read that an operation makes before its write, if it makes one. -/
@[simp] theorem readSource_sys (i : Instr) (n : Nat) (s : State) :
    ((readSource i).elim id readEffect (countDraws n s)).sys = s.sys := by
  cases readSource i with
  | none => rfl
  | some x => exact readEffect_sys x _

/-- The saved address, the tick's pending bit and the latch are as before (R32, R36, R37). -/
structure SavedKept (s t : State) : Prop where
  epc : t.sys.epc = s.sys.epc
  tickp : t.sys.tickp = s.sys.tickp
  latch : t.sys.latch = s.sys.latch

theorem SavedKept.of_sys_eq {s t : State} (h : t.sys = s.sys) : SavedKept s t :=
  ⟨by rw [h], by rw [h], by rw [h]⟩

/-- An operation leaves the saved address, the tick's pending bit and the latch alone; `LDT` alone loads the latch. -/
theorem exec_savedKept {i : Instr} {s t : State} (h : exec i s = .next t) :
    SavedKept s t ∨ ((∃ f, i = .ldt f) ∧ t.sys.epc = s.sys.epc ∧ t.sys.tickp = s.sys.tickp) := by
  rcases exec_cases h with ⟨c, n, rfl⟩ | ⟨x, v, n, -, rfl⟩ | ⟨f, x, v, n, rfl, -, rfl⟩ | ⟨_, _, x, n, -, -, rfl | rfl⟩ |
    ⟨-, rfl⟩ | ⟨-, rfl⟩ | ⟨a, -, rfl⟩ | ⟨-, -, rfl⟩ | ⟨-, -, rfl⟩
  · exact .inl ⟨rfl, rfl, rfl⟩
  · exact .inl (.of_sys_eq (by simp))
  · exact .inr ⟨⟨f, rfl⟩, by simp, by simp⟩
  · exact .inl (.of_sys_eq (by simp))
  · exact .inl (.of_sys_eq (by simp))
  · exact .inl (.of_sys_eq rfl)
  · exact .inl (.of_sys_eq rfl)
  · exact .inl (.of_sys_eq rfl)
  · exact .inl ⟨rfl, rfl, rfl⟩
  · exact .inl ⟨rfl, rfl, rfl⟩

/-! ### Interrupt entry -/

@[simp] theorem interruptEntry_epc (s : State) : (interruptEntry s).sys.epc = s.pc := by
  unfold interruptEntry
  split <;> rfl

/-- Interrupt entry does not save the latch and does not change it (R482). -/
@[simp] theorem interruptEntry_latch (s : State) : (interruptEntry s).sys.latch = s.sys.latch := by
  unfold interruptEntry
  split <;> rfl

/-- After an entry no tick is pending: a pending one is the one taken (R475, R481). -/
@[simp] theorem interruptEntry_tickp (s : State) : (interruptEntry s).sys.tickp = 0 := by
  unfold interruptEntry
  split
  · rfl
  · rename_i h
    exact bit_ne_one h

/-- With a tick pending, the entry is to the tick routine (R475). -/
theorem interruptEntry_pc_of_tick {s : State} (h : s.sys.tickp = 1) : (interruptEntry s).pc = 0x38 := by
  rw [interruptEntry, if_pos h]
  rfl

/-! ### The other agents -/

@[simp] theorem envSysclkInternal_sys (s : State) : (envSysclkInternal s).sys = s.sys := by
  unfold envSysclkInternal
  split <;> rfl

@[simp] theorem envOscReady_sys (s : State) : (envOscReady s).sys = s.sys := by
  unfold envOscReady
  split <;> rfl

@[simp] theorem envInjected_sys (a b c d : Sample) (s : State) : (envInjected a b c d s).sys = s.sys := by
  unfold envInjected
  split <;> rfl

@[simp] theorem appWrite_sys (c : AppCell) (v : Bit) (s : State) : (appWrite c v s).sys = s.sys := by
  cases c <;> rfl

@[simp] theorem timerTick_sys (s : State) : (timerTick s).sys = s.sys := by
  unfold timerTick
  split
  · exact putTim_sys _ s
  · rfl

@[simp] theorem adcReady_sys (s : State) : (adcReady s).sys = s.sys := by
  unfold adcReady
  split <;> rfl

@[simp] theorem adcComplete_sys (v : Sample) (s : State) : (adcComplete v s).sys = s.sys := by
  unfold adcComplete
  split <;> rfl

/-- Of the agents other than the sequencer, only the environment's tick and reset reach the sequencer's group. -/
theorem agentStep_sys {e : AgentStep} {s t : State} (he : e ≠ .seq) (h : agentStep e s = .next t) :
    t.sys = s.sys ∨ (e = .envTick ∧ t.sys = { s.sys with tickp := 1 }) ∨ ∃ src osc, e = .rst src osc := by
  cases e with
  | seq => exact absurd rfl he
  | envSysclkInternal => cases h; exact .inl (envSysclkInternal_sys s)
  | envOscReady => cases h; exact .inl (envOscReady_sys s)
  | envTick => cases h; exact .inr (.inl ⟨rfl, rfl⟩)
  | envInjected a b c d => cases h; exact .inl (envInjected_sys a b c d s)
  | appRead c => cases h; exact .inl rfl
  | appWrite c v => cases h; exact .inl (appWrite_sys c v s)
  | timerTick => cases h; exact .inl (timerTick_sys s)
  | adcReady => cases h; exact .inl (adcReady_sys s)
  | adcComplete v => cases h; exact .inl (adcComplete_sys v s)
  | rst src osc => exact .inr (.inr ⟨src, osc, rfl⟩)

theorem resetTurn_of_head {s : State} {src : ClkSource} {osc : Bit} (h : s.agenda.head? = some (.rst src osc)) :
    resetTurn s = true := by
  obtain ⟨rest, hagenda⟩ := List.head?_eq_some_iff.mp h
  simp [resetTurn, hagenda]

/-! ### What a step does to the saved address, the tick's pending bit and the latch -/

/-- A step leaves all three alone, or it is one of the four that reach them: interrupt entry, `LDT`, the environment's
tick, and reset. -/
theorem step_saved_cases {s t : State} (h : step s = .next t) :
    SavedKept s t ∨
    (takesInterrupt s = true ∧ t = interruptEntry { s with agenda := s.agenda.tail }) ∨
    ((∃ f, executes s = some (.ldt f)) ∧ t.sys.epc = s.sys.epc ∧ t.sys.tickp = s.sys.tickp) ∨
    (s.agenda.head? = some .envTick ∧ t.sys = { s.sys with tickp := 1 }) ∨
    resetTurn s = true := by
  rcases step_cases h with ⟨htakes, rfl⟩ | ⟨i, hi, hexec⟩ | ⟨-, -, -, -, rfl⟩ | ⟨-, -, rfl⟩ | ⟨e, hhead, hne, hagent⟩
  · exact .inr (.inl ⟨htakes, rfl⟩)
  · rcases exec_savedKept hexec with hkept | ⟨⟨f, rfl⟩, hepc, htickp⟩
    · exact .inl ⟨hkept.epc, hkept.tickp, hkept.latch⟩
    · exact .inr (.inr (.inl ⟨⟨f, hi⟩, hepc, htickp⟩))
  · exact .inl ⟨rfl, rfl, rfl⟩
  · exact .inl ⟨rfl, rfl, rfl⟩
  · rcases agentStep_sys hne hagent with hsys | ⟨rfl, hsys⟩ | ⟨src, osc, rfl⟩
    · exact .inl (.of_sys_eq hsys)
    · exact .inr (.inr (.inr (.inl ⟨hhead, hsys⟩)))
    · exact .inr (.inr (.inr (.inr (resetTurn_of_head hhead))))

/-- R36: the saved address changes only by interrupt entry, to the `pc` of the operation not executed, or by reset. -/
theorem step_epc_changes {s t : State} (h : step s = .next t) (hne : t.sys.epc ≠ s.sys.epc) :
    (takesInterrupt s = true ∧ t.sys.epc = s.pc) ∨ resetTurn s = true := by
  rcases step_saved_cases h with hkept | ⟨htakes, rfl⟩ | ⟨-, hepc, -⟩ | ⟨-, hsys⟩ | hreset
  · exact absurd hkept.epc hne
  · exact .inl ⟨htakes, interruptEntry_epc _⟩
  · exact absurd hepc hne
  · exact absurd (by rw [hsys]) hne
  · exact .inr hreset

/-- After reset no tick is pending (R93). -/
theorem step_tickp_of_resetTurn {s t : State} (hreset : resetTurn s = true) (h : step s = .next t) :
    t.sys.tickp = 0 := by
  unfold resetTurn at hreset
  split at hreset
  · rename_i src osc rest hagenda
    rw [step_of_agent hagenda] at h
    cases h
    rfl
  · cases hreset

/-- R37, R474: a tick becomes pending only by the environment's tick. -/
theorem step_tickp_rises {s t : State} (h : step s = .next t) (h0 : s.sys.tickp = 0) (h1 : t.sys.tickp = 1) :
    s.agenda.head? = some .envTick := by
  have hrise : t.sys.tickp ≠ 0 := by rw [h1]; decide
  rcases step_saved_cases h with hkept | ⟨-, rfl⟩ | ⟨-, -, htickp⟩ | ⟨hhead, -⟩ | hreset
  · exact absurd (hkept.tickp.trans h0) hrise
  · exact absurd (interruptEntry_tickp _) hrise
  · exact absurd (htickp.trans h0) hrise
  · exact hhead
  · exact absurd (step_tickp_of_resetTurn hreset h) hrise

/-- R37, R475: a pending tick ceases to be pending only by entry to the tick routine or by reset. -/
theorem step_tickp_falls {s t : State} (h : step s = .next t) (h1 : s.sys.tickp = 1) (h0 : t.sys.tickp = 0) :
    (takesInterrupt s = true ∧ t.pc = 0x38) ∨ resetTurn s = true := by
  have hfall : t.sys.tickp ≠ 1 := by rw [h0]; decide
  rcases step_saved_cases h with hkept | ⟨htakes, rfl⟩ | ⟨-, -, htickp⟩ | ⟨-, hsys⟩ | hreset
  · exact absurd (hkept.tickp.trans h1) hfall
  · exact .inl ⟨htakes, interruptEntry_pc_of_tick h1⟩
  · exact absurd (htickp.trans h1) hfall
  · exact absurd (by rw [hsys]) hfall
  · exact .inr hreset

/-- Settles O13, one lemma per clause. -/
theorem savedAddressAndTickPending : Obligations.SavedAddressAndTickPending := by
  unfold Obligations.SavedAddressAndTickPending
  exact ⟨fun _ _ => step_epc_changes, fun _ _ => step_tickp_rises, fun _ _ => step_tickp_falls⟩

/-- Settles O19: of the steps that reach the sequencer's group, entry keeps the latch, the tick sets only its own bit,
and `LDT` and reset are the two allowed. -/
theorem latchWrittenOnlyByLdt : Obligations.LatchWrittenOnlyByLdt := by
  unfold Obligations.LatchWrittenOnlyByLdt
  intro s t h hne
  rcases step_saved_cases h with hkept | ⟨-, rfl⟩ | ⟨hldt, -⟩ | ⟨-, hsys⟩ | hreset
  · exact absurd hkept.latch hne
  · exact absurd (interruptEntry_latch _) hne
  · exact .inl hldt
  · exact absurd (by rw [hsys]) hne
  · exact .inr hreset

/-! ### Unassigned field ids -/

/-- The ids that Table 10-F leaves out (R41). -/
theorem Field.ofId_eq_none_iff (f : FieldId) :
    Field.ofId f = none ↔ (f.toNat = 0x06 ∨ f.toNat = 0x07 ∨ (0x12 ≤ f.toNat ∧ f.toNat ≤ 0x17) ∨
      (0x2D ≤ f.toNat ∧ f.toNat ≤ 0x2F)) := by
  revert f
  decide

/-- The field ids among an operation's operands (R142). -/
def fieldOperands : Instr → List FieldId
  | .wri f _ | .wrp f _ | .set f | .clr f | .inc f | .wait f _ | .ldt f => [f]
  | .mov fd fs => [fd, fs]
  | .nop | .halt | .iret | .ei | .jmp _ | .bts _ _ | .btc _ _ | .spin _ => []

/-- R41, R145: an operation with an unassigned field operand raises BADFIELD, before any other check (R185). -/
theorem exec_of_unassigned {i : Instr} {f : FieldId} (hmem : f ∈ fieldOperands i) (hf : Field.ofId f = none) (s : State) :
    exec i s = raise .badField s := by
  cases i <;> simp only [fieldOperands, List.mem_cons, List.not_mem_nil, or_false] at hmem
  case wri => subst hmem; simp only [exec, execWri, hf]
  case wrp => subst hmem; simp only [exec, execWrp, hf]
  case set => subst hmem; simp only [exec, execSet, writeBit, hf]
  case clr => subst hmem; simp only [exec, execClr, writeBit, hf]
  case inc => subst hmem; simp only [exec, execInc, hf]
  case wait => subst hmem; simp only [exec, execWait, hf]
  case ldt => subst hmem; simp only [exec, execLdt, hf]
  case mov fd fs =>
    rcases hmem with rfl | rfl
    · simp only [exec, execMov, hf]
    · cases hd : Field.ofId fd <;> simp only [exec, execMov, hf, hd]

/-- Settles O31: the ids by the table, the fault by `exec_of_unassigned` for each operation with a field operand. -/
theorem unassignedFieldFaults : Obligations.UnassignedFieldFaults := by
  unfold Obligations.UnassignedFieldFaults
  intro f
  refine ⟨Field.ofId_eq_none_iff f, fun hf s => ⟨?_, fun k => ?_⟩⟩
  · intro i hi
    have hmem : f ∈ fieldOperands i := by
      simp only [List.mem_cons, List.not_mem_nil, or_false] at hi
      rcases hi with rfl | rfl | rfl | rfl <;> exact List.mem_singleton_self f
    exact exec_of_unassigned hmem hf s
  · have hfault : ∀ i, f ∈ fieldOperands i → exec i s = raise .badField s := fun i hmem => exec_of_unassigned hmem hf s
    exact ⟨hfault (.wri f k) (by simp [fieldOperands]), hfault (.wrp f k) (by simp [fieldOperands]),
      hfault (.wait f k) (by simp [fieldOperands]), hfault (.mov f k) (by simp [fieldOperands]),
      hfault (.mov k f) (by simp [fieldOperands])⟩

/-! ### Reset at any time -/

/-- After reset every field is 0 but `CLK.HSION` and the clock hardware's two status fields (R93, R94). -/
theorem value_launch (src : ClkSource) (osc : Bit) (imem : Memory) (param : Vector (BitVec 16) 9) {x : Field}
    (hsws : x ≠ .clkSws) (hready : x ≠ .clkHsirdy) (hon : x ≠ .clkHsion) :
    value x (State.launch src osc imem param) = 0 := by
  cases x
  case clkSws => exact absurd rfl hsws
  case clkHsirdy => exact absurd rfl hready
  case clkHsion => exact absurd rfl hon
  case sysPhase => simp [value, phase, clockConfigured, State.launch]
  case adcSr => simp [value, statusWord, State.launch]
  case adcSmpx => simp [value, smpCell, State.launch]
  all_goals rfl

/-- The launch state with the model's own fields is, field by field, the launch state (log 18). -/
theorem value_resetStep (x : Field) (src : ClkSource) (osc : Bit) (s : State) :
    value x (resetStep src osc s) = value x (State.launch src osc s.imem s.param) := by
  cases x <;> rfl

/-- Settles O59: the step is `resetStep`, whatever the rest of the state. -/
theorem resetAtAnyTime : Obligations.ResetAtAnyTime := by
  unfold Obligations.ResetAtAnyTime
  intro s rest src osc hagenda
  refine ⟨resetStep src osc { s with agenda := rest }, step_of_agent hagenda, rfl, rfl, rfl, rfl, rfl, rfl, rfl, rfl, ?_,
    rfl, rfl, rfl, rfl, ?_, rfl, rfl⟩
  · intro x hsws hready hon
    rw [value_resetStep]
    exact value_launch src osc s.imem s.param hsws hready hon
  · intro j
    exact Vector.getElem_replicate j.isLt

end Sys2Proof.Machine

/-! The operation store as the fetch sees it (R100, R101, R104): a word loaded from outside, and the word that the next
step runs. -/

namespace Sys2Proof.Machine

/-! ### Words of the store -/

/-- The two bytes of a word in the order of R104 make the word again. -/
@[simp] theorem wordOfBytes_wordBytes (w : OpWord) : wordOfBytes (loByte w) (hiByte w) = w := by
  unfold wordOfBytes loByte hiByte
  ext i hi
  simp only [BitVec.getElem_append, BitVec.getElem_extractLsb']
  split
  · rw [Nat.zero_add]; exact BitVec.getLsbD_eq_getElem hi
  · rw [Nat.add_sub_cancel' (by omega)]; exact BitVec.getLsbD_eq_getElem hi

/-- Decoding from the store and decoding the word agree (R101, R104). -/
theorem decode_wordBytes (w : OpWord) : decode (wordBytes w) = decodeWord w := by
  simp only [wordBytes, decode, wordOfBytes_wordBytes]

/-- A loaded word reads back at its address. -/
theorem Memory.bytesAt_writeWord_same {m : Memory} (a : Addr) (w : OpWord) (hm : m.wf = true) :
    (m.writeWord a w).bytesAt a = wordBytes w := by
  have ha := a.isLt
  have hlow : (m.write (2 * a.toNat) (loByte w)).wf = true :=
    Memory.write_wf _ (by simp only [storeBytes]; omega) hm
  have hne : 2 * a.toNat ≠ 2 * a.toNat + 1 := by omega
  simp only [Memory.bytesAt, Memory.writeWord, wordBytes]
  rw [Memory.read_write_other _ hne, Memory.read_write_same _ _ _ hm, Memory.read_write_same _ _ _ hlow]

/-- Loading a word leaves every other word alone: the four byte addresses differ. -/
theorem Memory.bytesAt_writeWord_other (m : Memory) {a b : Addr} (w : OpWord) (hne : b ≠ a) :
    (m.writeWord a w).bytesAt b = m.bytesAt b := by
  have hnat : b.toNat ≠ a.toNat := fun h => hne (BitVec.eq_of_toNat_eq h)
  have hbyte : ∀ k, k = 2 * b.toNat ∨ k = 2 * b.toNat + 1 → (m.writeWord a w).read k = m.read k := by
    intro k hk
    rw [Memory.writeWord, Memory.read_write_other _ (by omega), Memory.read_write_other _ (by omega)]
  simp only [Memory.bytesAt, hbyte _ (.inl rfl), hbyte _ (.inr rfl)]

/-! ### The step of a loaded word -/

/-- The sequencer's step where no interrupt is to be taken: the word at `pc` is decoded and run (R480). -/
theorem seqStep_of_fetch {s : State} {w : OpWord} (hi : interruptTakeable s = false) (hw : fetch s = wordBytes w) :
    seqStep s = runDecoded (decodeWord w) s := by
  rw [seqStep, hi, hw, decode_wordBytes]
  rfl

/-- `withFetchWord` with a whole word: the word is in the store at `pc`, and the sequencer is next (log 2). -/
theorem withFetchWord_word (s : State) (w : OpWord) :
    s.withFetchWord 16 w.toNat = { s with imem := s.imem.writeWord s.pc w, agenda := .seq :: s.agenda } := by
  rw [State.withFetchWord, Nat.mod_eq_of_lt w.isLt, BitVec.ofNat_toNat, BitVec.setWidth_eq]

/-- The step after the load is the sequencer's, on the store with the word in it. -/
theorem step_withFetchWord {s : State} (w : OpWord) (hf : faulted s = false) :
    step (s.withFetchWord 16 w.toNat) = seqStep { s with imem := s.imem.writeWord s.pc w } := by
  have hturn : sequencerTurn (s.withFetchWord 16 w.toNat) = true := rfl
  rw [step_of_sequencerTurn hturn hf, withFetchWord_word]
  rfl

/-- Settles O5, by what a read of the store gives after the load. -/
theorem loadedWordRuns : Obligations.LoadedWordRuns := by
  unfold Obligations.LoadedWordRuns
  intro s w hwf
  have hread : (s.imem.writeWord s.pc w).bytesAt s.pc = wordBytes w := Memory.bytesAt_writeWord_same s.pc w hwf
  refine ⟨Memory.writeWord_wf s.pc w hwf, hread, fun a ha => Memory.bytesAt_writeWord_other s.imem w ha,
    fun hfaulted htakeable => ?_⟩
  rw [step_withFetchWord w hfaulted]
  exact seqStep_of_fetch htakeable hread

end Sys2Proof.Machine

/-! What a field write stores and what it leaves alone (R112, R113), and what a gated read gives (R110, R111). -/

namespace Sys2Proof.Machine

/-! ### A store -/

/-- A value that fits a register comes back from it unchanged. -/
theorem setWidth_bus_of_lt {w : Nat} {v : BusWord} (h : v.toNat < 2 ^ w) : (v.setWidth w).setWidth 32 = v := by
  apply BitVec.eq_of_toNat_eq
  rw [BitVec.toNat_setWidth, BitVec.toNat_setWidth, Nat.mod_eq_of_lt h, Nat.mod_eq_of_lt v.isLt]

/-- A store of a legal value is read back from every writable field but the commands, which store nothing. -/
theorem value_storeField {x : Field} {v : BusWord} (s : State) (hw : x.writable = true) (hcmd : x.cls ≠ .cmd)
    (hv : x.legal v = true) : value x (storeField x v s) = v := by
  have hfits : v.toNat < 2 ^ x.width := ((Field.legal_iff x v).mp hv).1
  cases x
  case timOc1m =>
    simp only [value, storeField, putTim_tim]
    exact setWidth_bus_of_lt hfits
  case adcSmpx =>
    simp only [value, storeField, smpCell, Vector.getElem_set_self]
    exact setWidth_bus_of_lt hfits
  case shMs => rfl
  all_goals first
    | exact absurd hw (by decide)
    | exact absurd rfl hcmd
    | exact setWidth_bus_of_lt hfits

theorem storeField_runKept (x : Field) (v : BusWord) (s : State) : RunKept s (storeField x v s) :=
  ⟨storeField_imem x v s, storeField_param x v s, storeField_agenda x v s⟩

/-- The timer's counters and active registers are as before (R56, R88, R89). -/
structure CountersKept (s t : State) : Prop where
  cnt : t.tim.cnt = s.tim.cnt
  pscA : t.tim.pscA = s.tim.pscA
  arrA : t.tim.arrA = s.tim.arrA
  ccrA : t.tim.ccrA = s.tim.ccrA
  pscCnt : t.tim.pscCnt = s.tim.pscCnt

/-- No store reaches a counter or an active register: the reloads of R293 and R294 are write rules, not stores. -/
theorem storeField_countersKept (x : Field) (v : BusWord) (s : State) : CountersKept s (storeField x v s) := by
  cases x
  case timOc1m => constructor <;> simp only [storeField, putTim_tim]
  all_goals exact ⟨rfl, rfl, rfl, rfl, rfl⟩

/-- The fields from whose content no field but the phase and `ADC.SMPX` is computed: all but the two flags (`ADC.SR`),
`ADC.SMPX` itself (a cell of `SMP`) and `TIM.OC1M` (`TIM.OC1REF`). -/
def Field.independent : Field → Bool
  | .timOc1m | .adcSmpx | .adcEoc | .adcJeoc => false
  | _ => true

theorem Field.independent_of_ne {x : Field} (hmode : x ≠ .timOc1m) (hsmp : x ≠ .adcSmpx) (heoc : x ≠ .adcEoc)
    (hjeoc : x ≠ .adcJeoc) : x.independent = true := by
  cases x <;> first | rfl | contradiction

/-- A store to a field that no operation writes is none. -/
theorem storeField_of_not_writable {x : Field} (hw : ¬x.writable = true) (v : BusWord) (s : State) :
    storeField x v s = s := by
  cases x <;> first | exact absurd (by decide) hw | rfl

/-- A store to an independent field is seen in no other field, but in the phase and in `ADC.SMPX`, whose cell `ADC.SQ1`
selects: for each writable field and each other field, the other's value does not mention the register stored. -/
theorem value_storeField_other {x g : Field} (v : BusWord) (s : State) (hx : x.independent = true) (hne : g ≠ x)
    (hphase : g ≠ .sysPhase) (hsmp : g ≠ .adcSmpx) : value g (storeField x v s) = value g s := by
  by_cases hw : x.writable = true
  · cases x <;> try contradiction
    all_goals cases g <;> first | rfl | contradiction
  · rw [storeField_of_not_writable hw]

/-- A store to an independent field leaves alone everything but that field. -/
theorem storeField_othersKept {x : Field} (v : BusWord) (s : State) (hx : x.independent = true) :
    OthersKept x s (storeField x v s) where
  fields _ hne hphase hsmp := value_storeField_other v s hx hne hphase hsmp
  active :=
    have h := storeField_countersKept x v s
    ⟨h.pscA, h.arrA, h.ccrA, h.pscCnt⟩
  smp := by cases x <;> first | rfl | contradiction
  latched := by cases x <;> first | exact ⟨rfl, rfl⟩ | contradiction
  run := storeField_runKept x v s
  draws := storeField_draws x v s

theorem OthersKept.refl (x : Field) (s : State) : OthersKept x s s :=
  ⟨fun _ _ _ _ => rfl, ⟨rfl, rfl, rfl, rfl⟩, rfl, ⟨rfl, rfl⟩, RunKept.refl s, rfl⟩

/-! ### A write of a plain field -/

/-- The plain fields are writable, hold a content, and no other field is computed from it. -/
theorem Field.plain_spec {x : Field} (h : x.plain = true) :
    x.writable = true ∧ x.cls ≠ .cmd ∧ x.independent = true := by
  cases x <;> first | exact absurd h (by decide) | decide

/-- A plain field has no write rule of its own (Table 20-W). -/
theorem writeOpen_plain {x : Field} (h : x.plain = true) (v : BusWord) (s : State) :
    writeOpen x v s = storeField x v s := by
  cases x <;> first | exact absurd h (by decide) | rfl

/-- Settles O27: the write is a store. -/
theorem plainWriteStoresAndKeepsOthers : Obligations.PlainWriteStoresAndKeepsOthers := by
  unfold Obligations.PlainWriteStoresAndKeepsOthers
  intro x v s hplain hlegal hopen
  obtain ⟨hwritable, hcmd, hindependent⟩ := Field.plain_spec hplain
  rw [writeField_open hopen, writeOpen_plain hplain]
  exact ⟨value_storeField s hwritable hcmd hlegal, storeField_pc x v s, storeField_othersKept v s hindependent⟩

/-! ### A write of a gated field -/

theorem gated_group {x : Field} {s : State} (h : gated x s = true) : x.group = .tim ∨ x.group = .adc := by
  by_contra hgroup
  rw [not_or] at hgroup
  rw [gated_none hgroup.1 hgroup.2] at h
  cases h

theorem writeField_gated_cmd {x : Field} {s : State} (hgated : gated x s = true) (hcmd : x.cls = .cmd) (v : BusWord) :
    writeField x v s = s := by
  rw [writeField_gated hgated, writeGated, if_pos hcmd]

/-- A gated write of a field that is no command stores a draw among its legal values, whatever value is written. -/
theorem writeField_gated_store {x : Field} {s : State} (hgated : gated x s = true) (hcmd : x.cls ≠ .cmd) (v : BusWord) :
    writeField x v s = { storeField x (anyLegal x s.draws) s with draws := s.draws + 1 } := by
  rw [writeField_gated hgated, writeGated, if_neg hcmd, countDraws, storeField_draws]

/-- The count of draws is in no field (log 7). -/
@[simp] theorem value_draws (x : Field) (n : Nat) (s : State) : value x { s with draws := n } = value x s := by
  cases x <;> rfl

theorem writeField_gated_countersKept {x : Field} {s : State} (hgated : gated x s = true) (v : BusWord) :
    CountersKept s (writeField x v s) := by
  by_cases hcmd : x.cls = .cmd
  · rw [writeField_gated_cmd hgated hcmd]
    exact ⟨rfl, rfl, rfl, rfl, rfl⟩
  · rw [writeField_gated_store hgated hcmd]
    have h := storeField_countersKept x (anyLegal x s.draws) s
    exact ⟨h.cnt, h.pscA, h.arrA, h.ccrA, h.pscCnt⟩

/-- The count of draws taken back, a gated write leaves alone what a store does. -/
theorem writeField_gated_othersKept {x : Field} {s : State} (hgated : gated x s = true) (hx : x.independent = true)
    (v : BusWord) : OthersKept x s { writeField x v s with draws := s.draws } := by
  by_cases hcmd : x.cls = .cmd
  · rw [writeField_gated_cmd hgated hcmd]
    exact OthersKept.refl x s
  · rw [writeField_gated_store hgated hcmd]
    have h := storeField_othersKept (anyLegal x s.draws) s hx
    exact ⟨fun g hne hphase hsmp => (value_draws g _ _).trans (h.fields g hne hphase hsmp), h.active, h.smp, h.latched,
      ⟨h.run.imem, h.run.param, h.run.agenda⟩, rfl⟩

/-- Settles O30: a command does nothing, and every other gated write is a store of a draw. -/
theorem gatedWriteIsAnyLegalValue : Obligations.GatedWriteIsAnyLegalValue := by
  unfold Obligations.GatedWriteIsAnyLegalValue
  intro x v s hgated hwritable
  have hlegal := anyLegal_legal s.draws hwritable
  have hcounters := writeField_gated_countersKept hgated v
  refine ⟨fun hcmd => writeField_gated_cmd hgated hcmd v, fun hcmd => ⟨anyLegal x s.draws, hlegal, ?_, ?_⟩,
    ⟨writeField_pc x v s, writeField_runKept x v s⟩, ?_, ?_, ?_, ?_, ?_,
    hcounters.cnt, hcounters.pscA, hcounters.arrA, hcounters.ccrA, hcounters.pscCnt⟩
  · rw [writeField_gated_store hgated hcmd, value_draws, value_storeField s hwritable hcmd hlegal]
  · exact writeField_gated_store hgated hcmd v
  · intro hmode hsmp heoc hjeoc
    exact writeField_gated_othersKept hgated (Field.independent_of_ne hmode hsmp heoc hjeoc) v
  · rintro rfl
    exact ⟨_, writeField_gated_store hgated (by decide) v⟩
  · rintro rfl
    exact ⟨_, writeField_gated_store hgated (by decide) v⟩
  · rintro rfl
    rw [writeField_gated_store hgated (by decide)]
    exact ⟨rfl, fun j hj => Vector.getElem_set_ne s.adc.sq1.isLt j.isLt (Ne.symm hj)⟩
  · rintro rfl
    refine ⟨anyMode s.draws, anyMode_legal s.draws, ?_⟩
    rw [writeField_gated_store hgated (by decide), storeField, anyLegal, BitVec.setWidth_setWidth_of_le _ (by decide),
      BitVec.setWidth_eq]

/-! ### A read of a gated field -/

/-- A gated read has no side effect, not even of `ADC.DR` (R111). -/
theorem readEffect_gated {x : Field} {s : State} (h : gated x s = true) : readEffect x s = s := by
  simp [readEffect, h]

@[simp] theorem gated_countDraws (x : Field) (n : Nat) (s : State) : gated x (countDraws n s) = gated x s := by
  cases x <;> rfl

theorem execLdt_gated {g : FieldId} {y : Field} {s : State} (hg : Field.ofId g = some y) (hgated : gated y s = true) :
    exec (.ldt g) s = .next (advance (setLatch (anyOfWidth y s.draws) (countDraws 1 s))) := by
  have heffect : readEffect y (countDraws 1 s) = countDraws 1 s :=
    readEffect_gated ((gated_countDraws y 1 s).trans hgated)
  simp only [exec, execLdt, hg, peek_gated hgated, heffect]

theorem execInc_gated {g : FieldId} {y : Field} {s : State} (hg : Field.ofId g = some y) (hgated : gated y s = true)
    (hcountable : y.countable = true) :
    exec (.inc g) s = writeChecked y (incremented y (anyOfWidth y s.draws)) (countDraws 1 s) := by
  simp only [exec, execInc, hg, hcountable, if_true, peek_gated hgated]

theorem execMov_gated {f g : FieldId} {x y : Field} {s : State} (hf : Field.ofId f = some x) (hg : Field.ofId g = some y)
    (hwritable : x.writable = true) (hgated : gated y s = true) :
    exec (.mov f g) s = writeChecked x (anyOfWidth y s.draws) (countDraws 1 s) := by
  have heffect : readEffect y (countDraws 1 s) = countDraws 1 s :=
    readEffect_gated ((gated_countDraws y 1 s).trans hgated)
  simp only [exec, execMov, hf, hg, hwritable, if_true, peek_gated hgated, heffect, writeChecked]

/-- The checked write after one draw, in the state's own fields (R112, R185). -/
theorem writeChecked_countDraws (x : Field) (v : BusWord) (s : State) :
    writeChecked x v (countDraws 1 s) =
      if x.legal v = true then .next { writeField x v { s with draws := s.draws + 1 } with pc := s.pc + 1 }
      else .next { s with draws := s.draws + 1, sys := { s.sys with fcause := 5 } } := by
  unfold writeChecked advance
  rw [writeField_pc]
  rfl

/-- Settles O29, with the draw as the value read. -/
theorem gatedReadIsAnyValue : Obligations.GatedReadIsAnyValue := by
  unfold Obligations.GatedReadIsAnyValue
  intro y s hgated
  refine ⟨anyOfWidth y s.draws, anyOfWidth_lt y s.draws, peek_gated hgated, readEffect_gated hgated,
    fun g hg => ⟨execLdt_gated hg hgated, fun hcls => ?_, fun f x hf hwritable => ?_⟩⟩
  · rw [execInc_gated hg hgated ((Field.countable_iff y).mpr hcls)]
    exact writeChecked_countDraws y _ s
  · rw [execMov_gated hf hg hwritable hgated]
    exact writeChecked_countDraws x _ s

/-! ### The group that a write reaches -/

/-- Of the field groups and the hidden state, only the group of the field `x` may differ; where that is the timer's, a
conversion may besides have started (R311, R365). The sequencer's group, which no write reaches, is left to
`writeField_sys`. -/
structure GroupOnly (x : Field) (s t : State) : Prop where
  clk : x.group ≠ .clk → t.clk = s.clk
  tim : x.group ≠ .tim → t.tim = s.tim
  sh : x.group ≠ .sh → t.sh = s.sh
  start : x.group = .tim → t.adc = s.adc ∨ t.adc = startConversion s.adc
  adc : x.group ≠ .tim → x.group ≠ .adc → t.adc = s.adc

theorem GroupOnly.refl (x : Field) (s : State) : GroupOnly x s s :=
  ⟨fun _ => rfl, fun _ => rfl, fun _ => rfl, fun _ => .inl rfl, fun _ _ => rfl⟩

theorem GroupOnly.of_clk {x : Field} (h : x.group = .clk) (s : State) (c : Clk) : GroupOnly x s { s with clk := c } :=
  ⟨fun hne => absurd h hne, fun _ => rfl, fun _ => rfl, fun _ => .inl rfl, fun _ _ => rfl⟩

theorem GroupOnly.of_tim {x : Field} (h : x.group = .tim) (s : State) (t : Tim) : GroupOnly x s { s with tim := t } :=
  ⟨fun _ => rfl, fun hne => absurd h hne, fun _ => rfl, fun _ => .inl rfl, fun hne => absurd h hne⟩

theorem GroupOnly.of_putTim {x : Field} (h : x.group = .tim) (s : State) (t : Tim) : GroupOnly x s (putTim t s) :=
  ⟨fun _ => putTim_clk t s, fun hne => absurd h hne, fun _ => putTim_sh t s, fun _ => putTim_adc t s,
    fun hne => absurd h hne⟩

theorem GroupOnly.of_adc {x : Field} (h : x.group = .adc) (s : State) (a : Adc) : GroupOnly x s { s with adc := a } :=
  ⟨fun _ => rfl, fun _ => rfl, fun _ => rfl, fun htim => absurd (h.symm.trans htim) (by decide),
    fun _ hne => absurd h hne⟩

theorem GroupOnly.of_sh {x : Field} (h : x.group = .sh) (s : State) (c : Sh) : GroupOnly x s { s with sh := c } :=
  ⟨fun _ => rfl, fun _ => rfl, fun hne => absurd h hne, fun _ => .inl rfl, fun _ _ => rfl⟩

/-- Counting draws reaches no group (log 7). -/
theorem GroupOnly.countDraws {x : Field} {s t : State} (h : GroupOnly x s t) (n : Nat) :
    GroupOnly x s (countDraws n t) :=
  ⟨h.clk, h.tim, h.sh, h.start, h.adc⟩

/-- A store reaches the group of its field. -/
theorem storeField_groupOnly (x : Field) (v : BusWord) (s : State) : GroupOnly x s (storeField x v s) := by
  cases x
  case clkHsion | clkPpre2 | clkTimen | clkAdcen => exact .of_clk rfl s _
  case timPsc | timArr | timCcr1 | timOc1pe | timArpe | timCen => exact .of_tim rfl s _
  case timOc1m => exact .of_putTim rfl s _
  case adcAdon | adcBank | adcCont | adcExtsel | adcExten | adcL | adcSq1 | adcSmpx | adcEoc | adcJeoc | adcIrqen =>
    exact .of_adc rfl s _
  case shMs | shBg | shTc | shSip | shRegres | shInjres1 | shInjres2 | shInjres3 | shInjres4 => exact .of_sh rfl s _
  all_goals exact .refl _ s

/-- A write of a gate bit that is not `undefined` only stores the bit (R263). -/
theorem writeTimen_defined {v : Bit} {s : State} (h : gateUndefined v s.clk.timen s.clk = false) :
    writeTimen v s = { s with clk := { s.clk with timen := v } } := by
  simp [writeTimen, h]

theorem writeAdcen_defined {v : Bit} {s : State} (h : gateUndefined v s.clk.adcen s.clk = false) :
    writeAdcen v s = { s with clk := { s.clk with adcen := v } } := by
  simp [writeAdcen, h]

/-- The command `TIM.UG` reaches the timer, at its `undefined` point too (R298; log 11). -/
theorem writeUg_groupOnly (v : Bit) (s : State) : GroupOnly .timUg s (writeUg v s) := by
  unfold writeUg
  split
  · exact .refl _ s
  · split
    · exact (GroupOnly.of_putTim rfl s _).countDraws 3
    · exact .of_putTim rfl s _

/-- The command `ADC.SWSTART` reaches the converter, at its `undefined` point too (R362; log 12). -/
theorem writeSwstart_groupOnly (v : Bit) (s : State) : GroupOnly .adcSwstart s (writeSwstart v s) := by
  unfold writeSwstart
  split
  · exact .refl _ s
  · split
    · exact (GroupOnly.of_adc rfl s _).countDraws 3
    · exact .of_adc rfl s _

/-- A write that is not gated reaches the group of its field, where no gate bit is set before the clock is ready: there
alone a peripheral's state is drawn by a write of the clock's group (R263; log 10). -/
theorem writeOpen_groupOnly {x : Field} {v : BusWord} {s : State} (hdef : undefinedWrite x v s = false) :
    GroupOnly x s (writeOpen x v s) := by
  cases x
  case clkTimen => rw [writeOpen, writeTimen_defined hdef]; exact .of_clk rfl s _
  case clkAdcen => rw [writeOpen, writeAdcen_defined hdef]; exact .of_clk rfl s _
  case clkHsion => exact .of_clk rfl s _
  case timArr => exact .of_tim rfl s _
  case timCcr1 => exact .of_putTim rfl s _
  case timUg => exact writeUg_groupOnly _ s
  case adcAdon => exact .of_adc rfl s _
  case adcSwstart => exact writeSwstart_groupOnly _ s
  case adcEoc | adcJeoc =>
    rw [writeOpen]
    split
    · exact .of_adc rfl s _
    · exact .refl _ s
  all_goals exact storeField_groupOnly _ v s

theorem writeGated_groupOnly (x : Field) (s : State) : GroupOnly x s (writeGated x s) := by
  unfold writeGated
  split
  · exact .refl x s
  · exact (storeField_groupOnly x _ s).countDraws 1

theorem writeField_groupOnly {x : Field} {v : BusWord} {s : State} (hdef : undefinedWrite x v s = false) :
    GroupOnly x s (writeField x v s) := by
  unfold writeField
  split
  · exact writeGated_groupOnly x s
  · exact writeOpen_groupOnly hdef

/-- Settles O28. -/
theorem writesReachOnlyTheirGroup : Obligations.WritesReachOnlyTheirGroup := by
  unfold Obligations.WritesReachOnlyTheirGroup
  intro x v s _ _ hdef
  have h := writeField_groupOnly hdef
  exact ⟨writeField_pc x v s, writeField_sys x v s, writeField_runKept x v s, h.clk, h.tim, h.sh, h.start, h.adc⟩

end Sys2Proof.Machine

/-! The shared cells (R79 to R84, R130): of the agents other than the sequencer, the application alone reaches them, and
it reaches two. -/

namespace Sys2Proof.Machine

/-- The shared cells but the two that the application may write are as before (R130). -/
def AppCellsOnly (s t : State) : Prop := t.sh = { s.sh with bg := t.sh.bg, tc := t.sh.tc }

theorem AppCellsOnly.of_sh_eq {s t : State} (h : t.sh = s.sh) : AppCellsOnly s t := by
  unfold AppCellsOnly
  rw [h]

theorem appWrite_appCellsOnly (c : AppCell) (v : Bit) (s : State) : AppCellsOnly s (appWrite c v s) := by
  cases c <;> rfl

@[simp] theorem interruptEntry_sh (s : State) : (interruptEntry s).sh = s.sh := by
  unfold interruptEntry
  split <;> rfl

@[simp] theorem envSysclkInternal_sh (s : State) : (envSysclkInternal s).sh = s.sh := by
  unfold envSysclkInternal
  split <;> rfl

@[simp] theorem envOscReady_sh (s : State) : (envOscReady s).sh = s.sh := by
  unfold envOscReady
  split <;> rfl

@[simp] theorem envInjected_sh (a b c d : Sample) (s : State) : (envInjected a b c d s).sh = s.sh := by
  unfold envInjected
  split <;> rfl

@[simp] theorem timerTick_sh (s : State) : (timerTick s).sh = s.sh := by
  unfold timerTick
  split
  · exact putTim_sh _ s
  · rfl

@[simp] theorem adcReady_sh (s : State) : (adcReady s).sh = s.sh := by
  unfold adcReady
  split <;> rfl

@[simp] theorem adcComplete_sh (v : Sample) (s : State) : (adcComplete v s).sh = s.sh := by
  unfold adcComplete
  split <;> rfl

/-- An agent other than the sequencer reaches the application's two cells at most, unless it is reset. -/
theorem agentStep_appCellsOnly {e : AgentStep} {s t : State} (he : e ≠ .seq) (h : agentStep e s = .next t) :
    AppCellsOnly s t ∨ ∃ src osc, e = .rst src osc := by
  cases e with
  | seq => exact absurd rfl he
  | envSysclkInternal => cases h; exact .inl (.of_sh_eq (envSysclkInternal_sh s))
  | envOscReady => cases h; exact .inl (.of_sh_eq (envOscReady_sh s))
  | envTick => cases h; exact .inl (.of_sh_eq (envTick_sh s))
  | envInjected a b c d => cases h; exact .inl (.of_sh_eq (envInjected_sh a b c d s))
  | appRead c => cases h; exact .inl (.of_sh_eq rfl)
  | appWrite c v => cases h; exact .inl (appWrite_appCellsOnly c v s)
  | timerTick => cases h; exact .inl (.of_sh_eq (timerTick_sh s))
  | adcReady => cases h; exact .inl (.of_sh_eq (adcReady_sh s))
  | adcComplete v => cases h; exact .inl (.of_sh_eq (adcComplete_sh v s))
  | rst src osc => exact .inr ⟨src, osc, rfl⟩

/-- R130: a step that executes no operation and is no reset reaches the application's two cells at most. -/
theorem step_appCellsOnly {s t : State} (h : step s = .next t) (hexecutes : executes s = none)
    (hreset : resetTurn s = false) : AppCellsOnly s t := by
  rcases step_cases h with ⟨-, rfl⟩ | ⟨i, hi, -⟩ | ⟨-, -, -, -, rfl⟩ | ⟨-, -, rfl⟩ | ⟨e, hhead, hne, hagent⟩
  · exact .of_sh_eq (interruptEntry_sh _)
  · rw [hexecutes] at hi
    cases hi
  · exact .of_sh_eq rfl
  · exact .of_sh_eq rfl
  · rcases agentStep_appCellsOnly hne hagent with happ | ⟨src, osc, rfl⟩
    · exact happ
    · rw [resetTurn_of_head hhead] at hreset
      cases hreset

/-- Settles O60: the application's own steps are the agenda's head, run, and every other step is
`step_appCellsOnly`. -/
theorem applicationIsConfined : Obligations.ApplicationIsConfined := by
  unfold Obligations.ApplicationIsConfined
  refine ⟨fun s rest v => ⟨fun h => ?_, fun h => ?_⟩, fun s rest c h => ?_, fun s => ?_, fun s t => step_appCellsOnly⟩
  · rw [step_of_agent h]; rfl
  · rw [step_of_agent h]; rfl
  · rw [step_of_agent h]; rfl
  · exact ⟨rfl, rfl, rfl, rfl, rfl, rfl, rfl, rfl, rfl⟩

end Sys2Proof.Machine

/-! The coding of operations as words (R140 to R146, R150, R162): the decoder and the encoder row by row, that they are
inverse, and what an illegal word does. -/

namespace Sys2Proof

/-! ### The fields of a word (R141) -/

@[simp] theorem opField_packWord (op : BitVec 4) (a b : BitVec 6) : opField (packWord op a b) = op :=
  (BitVec.extractLsb'_append_eq_of_le (start := 12) (xhi := op ++ a) (xlo := b) (by decide)).trans
    BitVec.extractLsb'_append_eq_left

@[simp] theorem aField_packWord (op : BitVec 4) (a b : BitVec 6) : aField (packWord op a b) = a :=
  (BitVec.extractLsb'_append_eq_of_le (start := 6) (xhi := op ++ a) (xlo := b) (by decide)).trans
    BitVec.extractLsb'_append_eq_right

@[simp] theorem bField_packWord (op : BitVec 4) (a b : BitVec 6) : bField (packWord op a b) = b :=
  BitVec.extractLsb'_append_eq_right

/-- A word is its three fields. -/
theorem packWord_fields (w : OpWord) : packWord (opField w) (aField w) (bField w) = w := by
  have hhigh : opField w ++ aField w = w.extractLsb' 6 10 := BitVec.extractLsb'_append_extractLsb'_eq_extractLsb' rfl
  have hall : w.extractLsb' 6 10 ++ bField w = w.extractLsb' 0 16 :=
    BitVec.extractLsb'_append_extractLsb'_eq_extractLsb' rfl
  calc packWord (opField w) (aField w) (bField w)
    _ = w.extractLsb' 6 10 ++ bField w := congrArg (· ++ bField w) hhigh
    _ = w.extractLsb' 0 16 := hall
    _ = w := BitVec.extractLsb'_eq_self

/-- Words of different opcodes differ, whatever their operands. -/
theorem packWord_ne_of_op_ne {op op' : BitVec 4} (h : op ≠ op') (a b a' b' : BitVec 6) :
    packWord op a b ≠ packWord op' a' b' := fun heq =>
  h (by simpa using congrArg opField heq)

/-! ### The decoder by opcode (R145, Table 30-B) -/

@[simp] theorem decodeWord_system (a b : BitVec 6) : decodeWord (packWord 0#4 a b) = decodeSystem a b := by
  simp [decodeWord]

@[simp] theorem decodeWord_wri (a b : BitVec 6) : decodeWord (packWord 1#4 a b) = .op (.wri a b) := by
  simp [decodeWord]

@[simp] theorem decodeWord_wrp (a b : BitVec 6) : decodeWord (packWord 2#4 a b) = .op (.wrp a b) := by
  simp [decodeWord]

@[simp] theorem decodeWord_set (a b : BitVec 6) : decodeWord (packWord 3#4 a b) = decodeF .set a b := by
  simp [decodeWord]

@[simp] theorem decodeWord_clr (a b : BitVec 6) : decodeWord (packWord 4#4 a b) = decodeF .clr a b := by
  simp [decodeWord]

@[simp] theorem decodeWord_inc (a b : BitVec 6) : decodeWord (packWord 5#4 a b) = decodeF .inc a b := by
  simp [decodeWord]

@[simp] theorem decodeWord_mov (a b : BitVec 6) : decodeWord (packWord 6#4 a b) = .op (.mov a b) := by
  simp [decodeWord]

@[simp] theorem decodeWord_wait (a b : BitVec 6) : decodeWord (packWord 7#4 a b) = .op (.wait a b) := by
  simp [decodeWord]

@[simp] theorem decodeWord_jmp (a b : BitVec 6) : decodeWord (packWord 8#4 a b) = decodeJP .jmp a b := by
  simp [decodeWord]

@[simp] theorem decodeWord_bts (a b : BitVec 6) : decodeWord (packWord 9#4 a b) = decodeTB .bts a b := by
  simp [decodeWord]

@[simp] theorem decodeWord_btc (a b : BitVec 6) : decodeWord (packWord 10#4 a b) = decodeTB .btc a b := by
  simp [decodeWord]

@[simp] theorem decodeWord_spin (a b : BitVec 6) : decodeWord (packWord 11#4 a b) = decodeJP .spin a b := by
  simp [decodeWord]

@[simp] theorem decodeWord_ldt (a b : BitVec 6) : decodeWord (packWord 12#4 a b) = decodeF .ldt a b := by
  simp [decodeWord]

/-- The three opcodes that Table 30-B leaves reserved. -/
theorem decodeWord_reserved {op : BitVec 4} (h : op = 13#4 ∨ op = 14#4 ∨ op = 15#4) (a b : BitVec 6) :
    decodeWord (packWord op a b) = .illegal .reservedOpcode := by
  rcases h with rfl | rfl | rfl <;> simp [decodeWord]

/-- The rows of Table 30-B, by opcode; the last three are reserved. -/
theorem opcode_cases (op : BitVec 4) :
    op = 0#4 ∨ op = 1#4 ∨ op = 2#4 ∨ op = 3#4 ∨ op = 4#4 ∨ op = 5#4 ∨ op = 6#4 ∨ op = 7#4 ∨ op = 8#4 ∨ op = 9#4 ∨
      op = 10#4 ∨ op = 11#4 ∨ op = 12#4 ∨ op = 13#4 ∨ op = 14#4 ∨ op = 15#4 := by
  revert op
  decide

/-! ### The formats (R142): which operands decode, and to what -/

theorem decodeSystem_eq_op {a b : BitVec 6} {i : Instr} :
    decodeSystem a b = .op i ↔
      a = 0 ∧ (b = 1 ∧ .nop = i ∨ b = 2 ∧ .halt = i ∨ b = 3 ∧ .iret = i ∨ b = 4 ∧ .ei = i) := by
  unfold decodeSystem
  split_ifs <;> simp_all

theorem decodeF_eq_op {mk : FieldId → Instr} {a b : BitVec 6} {i : Instr} :
    decodeF mk a b = .op i ↔ b = 0 ∧ mk a = i := by
  unfold decodeF
  split_ifs <;> simp_all

theorem decodeJP_eq_op {mk : BitVec 6 → Instr} {a b : BitVec 6} {i : Instr} :
    decodeJP mk a b = .op i ↔ a = 0 ∧ mk b = i := by
  unfold decodeJP
  split_ifs <;> simp_all

theorem decodeTB_eq_op {mk : BitVec 6 → Addr → Instr} {a b : BitVec 6} {i : Instr} :
    decodeTB mk a b = .op i ↔ a.toNat ≤ 15 ∧ mk a b = i := by
  unfold decodeTB
  split_ifs with ha <;> simp [ha]

/-- What decodes to no operation is illegal. -/
theorem exists_illegal_iff (d : Decoded) : (∃ why, d = .illegal why) ↔ ∀ i, d ≠ .op i := by
  cases d <;> simp

theorem decodeSystem_illegal_iff (a b : BitVec 6) :
    (∃ why, decodeSystem a b = .illegal why) ↔ a.toNat ≠ 0 ∨ b.toNat = 0 ∨ 4 < b.toNat := by
  have hb : b.toNat = 0 ∨ 4 < b.toNat ↔ b ≠ 1 ∧ b ≠ 2 ∧ b ≠ 3 ∧ b ≠ 4 := by bv_omega
  have ha : a.toNat ≠ 0 ↔ a ≠ 0 := by bv_omega
  rw [ha, hb]
  unfold decodeSystem
  split_ifs <;> simp_all

theorem decodeF_illegal_iff (mk : FieldId → Instr) (a b : BitVec 6) :
    (∃ why, decodeF mk a b = .illegal why) ↔ b.toNat ≠ 0 := by
  simp [exists_illegal_iff, decodeF_eq_op, BitVec.toNat_eq]

theorem decodeJP_illegal_iff (mk : BitVec 6 → Instr) (a b : BitVec 6) :
    (∃ why, decodeJP mk a b = .illegal why) ↔ a.toNat ≠ 0 := by
  simp [exists_illegal_iff, decodeJP_eq_op, BitVec.toNat_eq]

theorem decodeTB_illegal_iff (mk : BitVec 6 → Addr → Instr) (a b : BitVec 6) :
    (∃ why, decodeTB mk a b = .illegal why) ↔ 15 < a.toNat := by
  simp [exists_illegal_iff, decodeTB_eq_op]

/-! ### The round trips (R146) -/

/-- Encoding, then decoding, gives the operation back, if its bit index is in range. -/
theorem decodeWord_encodeWord {i : Instr} (h : i.wellFormed = true) : decodeWord (encodeWord i) = .op i := by
  cases i with
  | nop | halt | iret | ei => decide
  | wri f k | wrp f k | mov f k | wait f k => simp [encodeWord]
  | set f | clr f | inc f | ldt f => simp [encodeWord, decodeF_eq_op]
  | jmp t | spin t => simp [encodeWord, decodeJP_eq_op]
  | bts j t | btc j t => simpa [encodeWord, decodeTB_eq_op] using of_decide_eq_true h

theorem decode_encode {i : Instr} (h : i.wellFormed = true) : decode (encode i) = .op i :=
  (Machine.decode_wordBytes _).trans (decodeWord_encodeWord h)

/-- The encoder inverts the decoder: each row of Table 30-B gives back the word's three fields, those that the format
fixes included. -/
theorem encodeWord_of_decodeWord {w : OpWord} {i : Instr} (h : decodeWord w = .op i) :
    i.wellFormed = true ∧ encodeWord i = w := by
  rw [← packWord_fields w] at h ⊢
  generalize opField w = op, aField w = a, bField w = b at h ⊢
  rcases opcode_cases op with rfl | rfl | rfl | rfl | rfl | rfl | rfl | rfl | rfl | rfl | rfl | rfl | rfl | hres
  · rw [decodeWord_system, decodeSystem_eq_op] at h
    rcases h with ⟨rfl, ⟨rfl, rfl⟩ | ⟨rfl, rfl⟩ | ⟨rfl, rfl⟩ | ⟨rfl, rfl⟩⟩ <;> exact ⟨rfl, rfl⟩
  · cases (decodeWord_wri a b).symm.trans h; exact ⟨rfl, rfl⟩
  · cases (decodeWord_wrp a b).symm.trans h; exact ⟨rfl, rfl⟩
  · rw [decodeWord_set, decodeF_eq_op] at h; obtain ⟨rfl, rfl⟩ := h; exact ⟨rfl, rfl⟩
  · rw [decodeWord_clr, decodeF_eq_op] at h; obtain ⟨rfl, rfl⟩ := h; exact ⟨rfl, rfl⟩
  · rw [decodeWord_inc, decodeF_eq_op] at h; obtain ⟨rfl, rfl⟩ := h; exact ⟨rfl, rfl⟩
  · cases (decodeWord_mov a b).symm.trans h; exact ⟨rfl, rfl⟩
  · cases (decodeWord_wait a b).symm.trans h; exact ⟨rfl, rfl⟩
  · rw [decodeWord_jmp, decodeJP_eq_op] at h; obtain ⟨rfl, rfl⟩ := h; exact ⟨rfl, rfl⟩
  · rw [decodeWord_bts, decodeTB_eq_op] at h; obtain ⟨ha, rfl⟩ := h; exact ⟨decide_eq_true ha, rfl⟩
  · rw [decodeWord_btc, decodeTB_eq_op] at h; obtain ⟨ha, rfl⟩ := h; exact ⟨decide_eq_true ha, rfl⟩
  · rw [decodeWord_spin, decodeJP_eq_op] at h; obtain ⟨rfl, rfl⟩ := h; exact ⟨rfl, rfl⟩
  · rw [decodeWord_ldt, decodeF_eq_op] at h; obtain ⟨rfl, rfl⟩ := h; exact ⟨rfl, rfl⟩
  · cases (decodeWord_reserved hres a b).symm.trans h

end Sys2Proof

namespace Sys2Proof.Machine

/-! ### `SET` and `CLR` beside `WRI` (R146) -/

/-- A write of an immediate 0 or 1 to a 1-bit field is the write of that bit: the check of the value always passes
(R180, R182, R185). -/
theorem execWri_of_bit {f : FieldId} {x : Field} {k : BitVec 6} {v : BusWord} (hf : Field.ofId f = some x)
    (hwidth : x.width = 1) (hk : immediate k = v) (hv : v = 0 ∨ v = 1) (s : State) : execWri f k s = writeBit f v s := by
  simp only [execWri, writeBit, hf, hwidth, hk, and_true]
  split_ifs with hw
  · have hlegal : x.legal v = true := by
      obtain ⟨h0, h1⟩ := Field.legal_bit hw hwidth
      rcases hv with rfl | rfl
      · exact h0
      · exact h1
    rw [writeChecked, if_pos hlegal]
  · rfl

/-- Settles O1: the two round trips, the bit writes as writes of an immediate, and the opcodes apart. -/
theorem decodeEncodeAgree : Obligations.DecodeEncodeAgree := by
  unfold Obligations.DecodeEncodeAgree
  refine ⟨fun i => decode_encode, fun w i => encodeWord_of_decodeWord, fun f x s hf hwidth => ⟨?_, ?_⟩,
    fun f g => ⟨?_, ?_⟩⟩
  · exact (execWri_of_bit hf hwidth (by decide) (.inr rfl) s).symm
  · exact (execWri_of_bit hf hwidth (by decide) (.inl rfl) s).symm
  · exact packWord_ne_of_op_ne (by decide) f 0 g 1
  · exact packWord_ne_of_op_ne (by decide) f 0 g 0

/-! ### Illegal words (R150) -/

/-- The sequencer's turn at an illegal word: ILLOP is recorded, and the agenda's entry is used up (R150, R462). -/
theorem step_of_illegal {s : State} {w : OpWord} {why : Illegal} (hturn : sequencerTurn s = true)
    (hrunning : faulted s = false) (hquiet : interruptTakeable s = false) (hfetch : fetch s = wordBytes w)
    (hillegal : decodeWord w = .illegal why) :
    step s = .next (recordFault .illop { s with agenda := s.agenda.tail }) := by
  have hseq : seqStep { s with agenda := s.agenda.tail } = runDecoded (decodeWord w) { s with agenda := s.agenda.tail } :=
    seqStep_of_fetch hquiet hfetch
  rw [step_of_sequencerTurn hturn hrunning, hseq, hillegal]
  rfl

/-- The addresses that Table 47-A does not list (R400): the 64 of them are read out. -/
theorem standardImage_unused (a : Addr)
    (h : (0x1C ≤ a.toNat ∧ a.toNat ≤ 0x1F) ∨ (0x32 ≤ a.toNat ∧ a.toNat ≤ 0x37) ∨ 0x3A ≤ a.toNat) :
    standardImage.bytesAt a = wordBytes 0x0000 := by
  revert a
  decide

/-- Settles O2: the list of R150 is read off the formats, opcode by opcode. -/
theorem illegalWordsFault : Obligations.IllegalWordsFault := by
  unfold Obligations.IllegalWordsFault
  refine ⟨fun w => ?_, fun s w why => step_of_illegal, ⟨_, _, rfl, rfl⟩, standardImage_unused⟩
  rw [← packWord_fields w]
  generalize opField w = op, aField w = a, bField w = b
  rcases opcode_cases op with rfl | rfl | rfl | rfl | rfl | rfl | rfl | rfl | rfl | rfl | rfl | rfl | rfl | hres
  · simp [decodeSystem_illegal_iff]
  · simp
  · simp
  · simp [decodeF_illegal_iff]
  · simp [decodeF_illegal_iff]
  · simp [decodeF_illegal_iff]
  · simp
  · simp
  · simp [decodeJP_illegal_iff]
  · simp [decodeTB_illegal_iff]
  · simp [decodeTB_illegal_iff]
  · simp [decodeJP_illegal_iff]
  · simp [decodeF_illegal_iff]
  · rcases hres with rfl | rfl | rfl <;> simp [decodeWord_reserved]

/-! ### The worked encodings (R162) -/

/-- Settles O3: the words are the encodings of well-formed operations, so they decode to them. -/
theorem workedEncodingsDecode : Obligations.WorkedEncodingsDecode := by
  unfold Obligations.WorkedEncodingsDecode
  intro p hp
  have hcoded : p.2.wellFormed = true ∧ encodeWord p.2 = p.1 := by
    revert p
    decide
  obtain ⟨hwf, hword⟩ := hcoded
  exact ⟨hword ▸ decode_encode hwf, hword⟩

end Sys2Proof.Machine

/-! The field-write operations at an assigned field (R180 to R185, R202): what each does once the id names a field, as
the checks of access and value that are left and the write that follows them. -/

namespace Sys2Proof.Machine

/-! ### The checks and the write that follows them -/

/-- A field write leaves `pc` alone, so the advance that follows it counts from the operation's own address (R112). -/
theorem advance_writeField (x : Field) (v : BusWord) (s : State) :
    advance (writeField x v s) = { writeField x v s with pc := s.pc + 1 } := by
  rw [advance, writeField_pc]

theorem writeChecked_of_legal {x : Field} {v : BusWord} (hlegal : x.legal v = true) (s : State) :
    writeChecked x v s = .next { writeField x v s with pc := s.pc + 1 } := by
  rw [writeChecked, if_pos hlegal, advance_writeField]

theorem writeChecked_of_illegal {x : Field} {v : BusWord} (hillegal : x.legal v = false) (s : State) :
    writeChecked x v s = raise .badValue s := by
  rw [writeChecked, if_neg (Bool.eq_false_iff.mp hillegal)]

/-- The check of access comes before the check of the value (R185). -/
theorem accessThenValue_eq (x : Field) (v : BusWord) (s : State) :
    (if x.writable then writeChecked x v s else raise .badAccess s) =
      if x.writable = false then .next { s with sys := { s.sys with fcause := 4 } }
      else if x.legal v = false then .next { s with sys := { s.sys with fcause := 5 } }
      else .next { writeField x v s with pc := s.pc + 1 } := by
  cases hw : x.writable with
  | false => rfl
  | true =>
    cases hlegal : x.legal v with
    | false => exact writeChecked_of_illegal hlegal s
    | true => exact writeChecked_of_legal hlegal s

/-- A writable field that is neither a command nor a flag is of class RW or RW-A, so `INC` may increment it (R108,
R184). -/
theorem Field.countable_of_writable {x : Field} (hw : x.writable = true) (hcmd : x.cls ≠ .cmd)
    (hflag : x.cls ≠ .flag) : x.countable = true := by
  rw [Field.countable_iff]
  cases hcls : x.cls with
  | rw => exact .inl rfl
  | rwA => exact .inr rfl
  | cmd => exact absurd hcls hcmd
  | flag => exact absurd hcls hflag
  | ro | roE | roDerived => simp [Field.writable, hcls] at hw

/-! ### Each operation at an assigned field -/

section
variable {f : FieldId} {x : Field} (hf : Field.ofId f = some x)
include hf

theorem exec_wri (k : BitVec 6) (s : State) :
    exec (.wri f k) s = if x.writable then writeChecked x (k.setWidth 32) s else raise .badAccess s := by
  simp only [exec, execWri, hf, immediate]

theorem exec_wrp {p : StrapId} (h : p.toNat < 9) (s : State) :
    exec (.wrp f p) s =
      if x.writable then writeChecked x ((s.param[p.toNat]'h).setWidth 32) s else raise .badAccess s := by
  simp only [exec, execWrp, hf, strap_some s h]

theorem exec_wrp_of_noStrap {p : StrapId} (h : ¬p.toNat < 9) (s : State) : exec (.wrp f p) s = raise .badParam s := by
  simp only [exec, execWrp, hf, strap_none s h]

theorem writeBit_of_bit (hw : x.writable = true) (hwidth : x.width = 1) (v : BusWord) (s : State) :
    writeBit f v s = .next { writeField x v s with pc := s.pc + 1 } := by
  simp only [writeBit, hf, hw, hwidth, and_self, if_true, advance_writeField]

theorem writeBit_of_noBit (h : x.writable = false ∨ x.width ≠ 1) (v : BusWord) (s : State) :
    writeBit f v s = raise .badAccess s := by
  have hno : ¬(x.writable = true ∧ x.width = 1) := by
    rintro ⟨hw, hwidth⟩
    rcases h with h | h
    · exact absurd hw (Bool.eq_false_iff.mp h)
    · exact h hwidth
  simp only [writeBit, hf, if_neg hno]

/-- `INC` of a field that is not gated adds one to its content (R110, R184). -/
theorem exec_inc_of_open {s : State} (hc : x.countable = true) (hopen : gated x s = false) :
    exec (.inc f) s = writeChecked x (incremented x (value x s)) s := by
  simp only [exec, execInc, hf, hc, if_true, peek_open hopen]

theorem exec_inc_of_not_countable (hc : x.countable ≠ true) (s : State) : exec (.inc f) s = raise .badAccess s := by
  simp only [exec, execInc, hf, if_neg hc]

section
variable {g : FieldId} {y : Field} (hg : Field.ofId g = some y)
include hg

/-- The destination's access is checked before the source is read, gated or not (R202). -/
theorem exec_mov_of_readOnly (hw : x.writable = false) (s : State) : exec (.mov f g) s = raise .badAccess s := by
  simp only [exec, execMov, hf, hg, hw, Bool.false_eq_true, if_false]

/-- `MOV` from a field that is not gated writes after the source's read side effect (R111, R202). -/
theorem exec_mov_of_legal {s : State} (hw : x.writable = true) (hopen : gated y s = false)
    (hlegal : x.legal (value y s) = true) :
    exec (.mov f g) s = .next { writeField x (value y s) (readEffect y s) with pc := s.pc + 1 } := by
  obtain ⟨hpc, -⟩ := readEffect_kept y s
  simp only [exec, execMov, hf, hg, hw, if_true, peek_open hopen, hlegal, advance_writeField, hpc]

/-- A `MOV` whose value is not legal faults before the source's read side effect (R202). -/
theorem exec_mov_of_illegal {s : State} (hw : x.writable = true) (hopen : gated y s = false)
    (hillegal : x.legal (value y s) = false) : exec (.mov f g) s = raise .badValue s := by
  simp only [exec, execMov, hf, hg, hw, if_true, peek_open hopen, hillegal, Bool.false_eq_true, if_false]

end

end

/-- Settles O26: each operation reaches its write, since the checks before it pass. -/
theorem fieldWriteOperationsComplete : Obligations.FieldWriteOperationsComplete := by
  unfold Obligations.FieldWriteOperationsComplete
  intro s f x hf hw
  refine ⟨fun k hlegal => ?_, fun p h hlegal => ?_,
    fun hwidth => ⟨writeBit_of_bit hf hw hwidth 1 s, writeBit_of_bit hf hw hwidth 0 s⟩,
    fun hcmd hflag hopen hlegal => ?_, fun g y hg => exec_mov_of_legal hf hg hw⟩
  · rw [exec_wri hf, if_pos hw, writeChecked_of_legal hlegal]
  · rw [exec_wrp hf h, if_pos hw, writeChecked_of_legal hlegal]
  · rw [exec_inc_of_open hf (Field.countable_of_writable hw hcmd hflag) hopen]
    exact writeChecked_of_legal hlegal s

/-- Settles O32: each operation's first failing check decides. -/
theorem checksRunInOrder : Obligations.ChecksRunInOrder := by
  unfold Obligations.ChecksRunInOrder
  intro s f x hf
  refine ⟨fun k => ?_, fun p => ?_, fun hno => ⟨writeBit_of_noBit hf hno 1 s, writeBit_of_noBit hf hno 0 s⟩,
    fun hcls => ?_, fun hcls hopen hillegal => ?_,
    fun g y hg => ⟨fun hw => exec_mov_of_readOnly hf hg hw s, fun hw => exec_mov_of_illegal hf hg hw⟩⟩
  · rw [exec_wri hf, accessThenValue_eq]
  · by_cases h : p.toNat < 9
    · rw [dif_pos h, exec_wrp hf h, accessThenValue_eq]
    · rw [dif_neg h]
      exact exec_wrp_of_noStrap hf h s
  · obtain ⟨hrw, hrwA⟩ := hcls
    refine exec_inc_of_not_countable hf (fun hc => ?_) s
    exact ((Field.countable_iff x).mp hc).elim hrw hrwA
  · rw [exec_inc_of_open hf ((Field.countable_iff x).mpr hcls) hopen]
    exact writeChecked_of_illegal hillegal s

/-! ### What `INC` writes -/

/-- One more than the content of a 32-bit field is the bus's own addition (R79, R184). -/
theorem incremented_of_width_bus {x : Field} (hwidth : x.width = 32) (v : BusWord) : incremented x v = v + 1 := by
  apply BitVec.eq_of_toNat_eq
  simp [incremented, hwidth, BitVec.toNat_add]

/-- One more than the content of a 1-bit field is the other bit (R184). -/
theorem incremented_of_bit {x : Field} {v : BusWord} (hwidth : x.width = 1) (hv : v.toNat < 2 ^ x.width) :
    incremented x v = if v = 0 then 1 else 0 := by
  have hbit : v = 0 ∨ v = 1 := by
    rw [hwidth] at hv
    bv_omega
  rcases hbit with rfl | rfl <;> simp [incremented, hwidth]

/-- `INC` of a 1-bit field that is not gated writes the other bit: both bits are legal (R184). -/
theorem exec_inc_of_bit {f : FieldId} {x : Field} {s : State} (hf : Field.ofId f = some x) (hwidth : x.width = 1)
    (hc : x.countable = true) (hopen : gated x s = false) :
    exec (.inc f) s = .next { writeField x (if value x s = 0 then 1 else 0) s with pc := s.pc + 1 } := by
  have hlegal : x.legal (if value x s = 0 then 1 else 0) = true := by
    obtain ⟨h0, h1⟩ := Field.legal_bit (Field.writable_of_countable hc) hwidth
    split_ifs
    · exact h1
    · exact h0
  rw [exec_inc_of_open hf hc hopen, incremented_of_bit hwidth (value_lt x s), writeChecked_of_legal hlegal]

/-- The other bit, as a toggle's bus value is tested and stored. -/
theorem toggle_setWidth (b : Bit) :
    ((if b.setWidth 32 = 0 then 1 else 0 : BusWord).setWidth 1 : Bit) = if b = 0 then 1 else 0 := by
  revert b
  decide

/-- `INC SH.MS`: every value of the width is legal (R79, R184). -/
theorem exec_inc_shMs (s : State) :
    exec (.inc 0x37) s = .next { s with pc := s.pc + 1, sh := { s.sh with ms := s.sh.ms + 1 } } := by
  have hlegal : Field.shMs.legal (s.sh.ms + 1) = true := by
    rw [Field.legal_iff]
    exact ⟨BitVec.isLt _, rfl⟩
  rw [exec_inc_of_open (x := .shMs) rfl rfl rfl, incremented_of_width_bus rfl]
  exact writeChecked_of_legal hlegal s

/-- Settles O33: the wrap of `SH.MS`, the toggles by `exec_inc_of_bit`, and the mode 1 that is not legal. -/
theorem incrementWraps : Obligations.IncrementWraps := by
  unfold Obligations.IncrementWraps
  refine ⟨exec_inc_shMs, fun s => ?_, fun s => ?_,
    fun s f x hf hwidth hcls hopen _ => exec_inc_of_bit hf hwidth ((Field.countable_iff x).mpr hcls) hopen,
    fun s hclock hmode => ?_⟩
  · rw [exec_inc_of_bit (x := .shBg) rfl rfl rfl rfl, ← toggle_setWidth]
    rfl
  · rw [exec_inc_of_bit (x := .shTc) rfl rfl rfl rfl, ← toggle_setWidth]
    rfl
  · have hopen : gated .timOc1m s = false := by
      rw [gated_tim rfl, hclock]
      rfl
    have hillegal : Field.timOc1m.legal (incremented .timOc1m (value .timOc1m s)) = false := by
      rw [value, hmode]
      decide
    rw [exec_inc_of_open (x := .timOc1m) rfl rfl hopen]
    exact writeChecked_of_illegal hillegal s

end Sys2Proof.Machine

/-! The load and move operations on fields that are not gated (R72, R200 to R202): the bits of the status word, the read's
side effect, and what `MOV f, f` leaves as it was. -/

namespace Sys2Proof.Machine

/-! ### Registers on the bus, and when a group's fields are open (R109, R110) -/

/-- What a register puts on the bus comes back into a register of its width unchanged. -/
theorem setWidth_bus_self {w : Nat} (h : w ≤ 32) (r : BitVec w) : (r.setWidth 32).setWidth w = r := by
  rw [BitVec.setWidth_setWidth_of_le _ h, BitVec.setWidth_eq]

theorem gated_adc_of_adcen {x : Field} {s : State} (hgroup : x.group = .adc) (hclock : s.clk.adcen = 1) :
    gated x s = false := by
  rw [gated_adc hgroup, hclock]
  rfl

theorem gated_tim_of_timen {x : Field} {s : State} (hgroup : x.group = .tim) (hclock : s.clk.timen = 1) :
    gated x s = false := by
  rw [gated_tim hgroup, hclock]
  rfl

/-! ### The status word (R72) -/

/-- Appending registers is positional notation. -/
theorem toNat_append_eq_mul_add {m n : Nat} (a : BitVec m) (b : BitVec n) :
    (a ++ b).toNat = a.toNat * 2 ^ n + b.toNat := by
  rw [BitVec.toNat_append, ← Nat.shiftLeft_add_eq_or_of_lt b.isLt, Nat.shiftLeft_eq]

/-- The status word as a number: each flag at its bit's weight (R72). -/
theorem statusWord_toNat (a : Adc) :
    (statusWord a).toNat =
      a.eoc.toNat + 2 * a.jeoc.toNat + 4 * a.adons.toNat + 8 * a.armed.toNat + 16 * a.busy.toNat := by
  simp only [statusWord, toNat_append_eq_mul_add, BitVec.ofNat_eq_ofNat, BitVec.toNat_ofNat]
  omega

/-- A bit of a 1-bit register: the register itself, and 0 above it. -/
theorem getLsbD_bit (b : Bit) (n : Nat) : b.getLsbD n = (decide (n = 0) && decide (b = 1)) := by
  rcases bit_zero_or_one b with rfl | rfl <;> simp

/-- The bits of the status word, from bit 0 up (R72). -/
theorem statusWord_getLsbD (a : Adc) :
    (statusWord a).getLsbD 0 = decide (a.eoc = 1) ∧ (statusWord a).getLsbD 1 = decide (a.jeoc = 1) ∧
    (statusWord a).getLsbD 2 = decide (a.adons = 1) ∧ (statusWord a).getLsbD 3 = decide (a.armed = 1) ∧
    (statusWord a).getLsbD 4 = decide (a.busy = 1) ∧ ∀ n, 5 ≤ n → (statusWord a).getLsbD n = false := by
  simp only [statusWord, BitVec.getLsbD_append, getLsbD_bit]
  refine ⟨by simp, by simp, by simp, by simp, by simp, fun n hn => ?_⟩
  rw [if_neg (by omega), if_neg (by omega), if_neg (by omega), if_neg (by omega), if_neg (by omega)]
  exact BitVec.getLsbD_zero

/-! ### `LDT` -/

/-- The side effect of a read that is not gated, in the state's own fields (R111). -/
theorem readEffect_of_open {x : Field} {s : State} (hopen : gated x s = false) :
    readEffect x s = { s with adc := { s.adc with eoc := if x = .adcDr then 0 else s.adc.eoc } } := by
  by_cases hx : x = .adcDr
  · simp only [readEffect, hx, hx ▸ hopen, and_self, if_true]
  · simp only [readEffect_other hx, if_neg hx]

/-- `LDT` of a field that is not gated (R201). -/
theorem exec_ldt_of_open {f : FieldId} {x : Field} {s : State} (hf : Field.ofId f = some x)
    (hopen : gated x s = false) :
    exec (.ldt f) s = .next { s with
      pc := s.pc + 1
      sys := { s.sys with latch := (value x s).setWidth 16 }
      adc := { s.adc with eoc := if x = .adcDr then 0 else s.adc.eoc } } := by
  simp only [exec, execLdt, hf, peek_open hopen, readEffect_of_open hopen]
  rfl

/-- Settles O34: the load of any field by `exec_ldt_of_open`, and the status word by its bits. -/
theorem ldtLoadsLatch : Obligations.LdtLoadsLatch := by
  unfold Obligations.LdtLoadsLatch
  refine ⟨fun _ _ _ => exec_ldt_of_open, fun s => ?_,
    fun s hclock => ⟨statusWord s.adc, ?_, statusWord_getLsbD s.adc⟩⟩
  · rw [value, BitVec.toNat_setWidth_of_le (by decide), statusWord_toNat]
  · rw [exec_ldt_of_open (x := .adcSr) rfl (gated_adc_of_adcen rfl hclock), value, setWidth_bus_self (by decide)]
    rfl

/-! ### `MOV` -/

/-- A 16-bit register on the bus is legal for every 16-bit field that takes all values of its width (R108). -/
theorem Field.legal_data {x : Field} (hwidth : x.width = 16) (hlisted : ∀ v, x.listed v = true) (w : BitVec 16) :
    x.legal (w.setWidth 32) = true := by
  rw [Field.legal_iff, hwidth, BitVec.toNat_setWidth_of_le (by decide)]
  exact ⟨w.isLt, hlisted _⟩

/-- A store of a field's own content into it changes nothing: it puts each register back as it was. -/
theorem storeField_value_of_plain {x : Field} (h : x.plain = true) (s : State) : storeField x (value x s) s = s := by
  cases x <;> try contradiction
  all_goals simp [storeField, value]

/-- The result goes to its shared cell and its flag falls in the same step (R106, R202, R379). -/
theorem exec_mov_dr_regres {s : State} (hclock : s.clk.adcen = 1) :
    exec (.mov 0x3B 0x24) s = .next { s with
      pc := s.pc + 1, sh := { s.sh with regres := s.adc.dr }, adc := { s.adc with eoc := 0 } } := by
  have hopen : gated .adcDr s = false := gated_adc_of_adcen rfl hclock
  rw [exec_mov_of_legal (x := .shRegres) (y := .adcDr) rfl rfl rfl hopen
      (Field.legal_data rfl (fun _ => rfl) s.adc.dr),
    readEffect_of_open hopen, writeField_open rfl, writeOpen_plain rfl, storeField, value,
    setWidth_bus_self (by decide)]
  rfl

/-- The read of an injected result has no side effect (R111), so the injected flag stays. -/
theorem exec_mov_jdr1_injres1 {s : State} (hclock : s.clk.adcen = 1) :
    exec (.mov 0x3C 0x25) s = .next { s with pc := s.pc + 1, sh := { s.sh with injres1 := s.adc.jdr1 } } := by
  rw [exec_mov_of_legal (x := .shInjres1) (y := .adcJdr1) rfl rfl rfl (gated_adc_of_adcen rfl hclock)
      (Field.legal_data rfl (fun _ => rfl) s.adc.jdr1),
    readEffect_other (by decide), writeField_open rfl, writeOpen_plain rfl, storeField, value,
    setWidth_bus_self (by decide)]

/-- A result above 1 does not fit the toggle `SH.BG`: the fault comes before the read's side effect (R202). -/
theorem exec_mov_dr_bg_of_big {s : State} (hclock : s.clk.adcen = 1) (hbig : 1 < s.adc.dr.toNat) :
    exec (.mov 0x38 0x24) s = .next { s with sys := { s.sys with fcause := 5 } } := by
  have hillegal : Field.shBg.legal (value .adcDr s) = false := by
    rw [Bool.eq_false_iff, ne_eq, Field.legal_iff, value, BitVec.toNat_setWidth_of_le (by decide)]
    exact fun ⟨hfits, _⟩ => absurd hfits (Nat.not_lt.mpr hbig)
  exact exec_mov_of_illegal (x := .shBg) rfl rfl rfl (gated_adc_of_adcen rfl hclock) hillegal

/-- `MOV f, f` is the field's write rule on its own content: no writable field has a read side effect (R111, R202). -/
theorem exec_mov_self {f : FieldId} {x : Field} {s : State} (hf : Field.ofId f = some x) (hw : x.writable = true)
    (hopen : gated x s = false) (hlegal : x.legal (value x s) = true) :
    exec (.mov f f) s = .next { writeOpen x (value x s) s with pc := s.pc + 1 } := by
  have hdr : x ≠ .adcDr := by
    rintro rfl
    exact absurd hw (by decide)
  rw [exec_mov_of_legal hf hf hw hopen hlegal, readEffect_other hdr, writeField_open hopen]

/-- On a plain field `MOV f, f` only advances: its write is the store of the content that is there (R202). -/
theorem exec_mov_self_plain {f : FieldId} {x : Field} {s : State} (hf : Field.ofId f = some x) (hplain : x.plain = true)
    (hopen : gated x s = false) (hlegal : x.legal (value x s) = true) :
    exec (.mov f f) s = .next { s with pc := s.pc + 1 } := by
  rw [exec_mov_self hf (Field.plain_spec hplain).1 hopen hlegal, writeOpen_plain hplain,
    storeField_value_of_plain hplain]

/-- `MOV TIM.ARR, TIM.ARR` reloads the active period while the preload enable is 0 (R293, log 26). -/
theorem exec_mov_arr_self {s : State} (hclock : s.clk.timen = 1) :
    exec (.mov 0x09 0x09) s = .next { s with
      pc := s.pc + 1, tim := { s.tim with arrA := if s.tim.arpe = 0 then s.tim.arr else s.tim.arrA } } := by
  rw [exec_mov_self (x := .timArr) rfl rfl (gated_tim_of_timen rfl hclock)
      (Field.legal_data rfl (fun _ => rfl) s.tim.arr),
    writeOpen, value, setWidth_bus_self (by decide), writeArr]

/-- `MOV TIM.CCR1, TIM.CCR1` reloads the active compare value while the preload enable is 0, with the edge that this may
make (R294, R311, log 26). -/
theorem exec_mov_ccr1_self {s : State} (hclock : s.clk.timen = 1) :
    exec (.mov 0x0A 0x0A) s = .next { putTim
      { s.tim with ccrA := if s.tim.oc1pe = 0 then s.tim.ccr1 else s.tim.ccrA } s with pc := s.pc + 1 } := by
  rw [exec_mov_self (x := .timCcr1) rfl rfl (gated_tim_of_timen rfl hclock)
      (Field.legal_data rfl (fun _ => rfl) s.tim.ccr1),
    writeOpen, value, setWidth_bus_self (by decide), writeCcr1]

/-- Settles O35: the transfers and the precise fault, then `MOV f, f` by what the field's own write rule leaves. -/
theorem movTransfersResult : Obligations.MovTransfersResult := by
  unfold Obligations.MovTransfersResult
  exact ⟨fun _ => exec_mov_dr_regres, fun _ => exec_mov_jdr1_injres1, fun _ => exec_mov_dr_bg_of_big,
    fun _ _ _ => exec_mov_self_plain, fun _ hclock => ⟨exec_mov_arr_self hclock, exec_mov_ccr1_self hclock⟩⟩

end Sys2Proof.Machine

/-! The wait and control-transfer operations (R220 to R225): what each does by its operands, and where `pc` can go after
any operation. -/

namespace Sys2Proof.Machine

/-! ### `JMP`, `BTS`, `BTC` and `SPIN` -/

theorem exec_jmp (a : Addr) (s : State) : exec (.jmp a) s = .next { s with pc := a } := rfl

/-- The latch's bit as the machine tests it is the bit of the latch's number (R32). -/
theorem latchBit_eq_testBit (s : State) (j : BitVec 6) : latchBit s j = s.sys.latch.toNat.testBit j.toNat :=
  (BitVec.testBit_toNat s.sys.latch).symm

theorem exec_bts {j : BitVec 6} (hj : j.toNat ≤ 15) (a : Addr) (s : State) :
    exec (.bts j a) s = .next { s with pc := if s.sys.latch.toNat.testBit j.toNat then a else s.pc + 1 } := by
  simp only [exec, execBts, if_pos hj, ← latchBit_eq_testBit]
  split <;> rfl

theorem exec_btc {j : BitVec 6} (hj : j.toNat ≤ 15) (a : Addr) (s : State) :
    exec (.btc j a) s = .next { s with pc := if s.sys.latch.toNat.testBit j.toNat then s.pc + 1 else a } := by
  simp only [exec, execBtc, if_pos hj, ← latchBit_eq_testBit]
  split <;> rfl

/-- A bit index above 15 is no operand of a branch: the word is illegal (R150, log 20). -/
theorem exec_branch_of_badIndex {j : BitVec 6} (hj : 15 < j.toNat) (a : Addr) (s : State) :
    exec (.bts j a) s = raise .illop s ∧ exec (.btc j a) s = raise .illop s := by
  simp only [exec, execBts, execBtc, if_neg (Nat.not_le.mpr hj), and_self]

/-- Settles O37: the branches by the bit of the latch. -/
theorem jumpsAndBranches : Obligations.JumpsAndBranches := by
  unfold Obligations.JumpsAndBranches
  refine ⟨fun s a => exec_jmp a s, fun s j a hj => ⟨fun hset => ?_, fun hclear => ?_⟩,
    fun s j a hj => exec_branch_of_badIndex hj a s⟩
  · rw [exec_bts hj, exec_btc hj, hset]
    exact ⟨rfl, rfl⟩
  · rw [exec_bts hj, exec_btc hj, hclear]
    exact ⟨rfl, rfl⟩

theorem exec_spin {p : StrapId} (hp : p.toNat < 9) (s : State) : exec (.spin p) s = .next { s with pc := s.pc + 1 } := by
  simp only [exec, execSpin, strap_some s hp, advance]

theorem exec_spin_of_noStrap {p : StrapId} (hp : ¬p.toNat < 9) (s : State) : exec (.spin p) s = raise .badParam s := by
  simp only [exec, execSpin, strap_none s hp]

/-- Settles O38: an index is a strap's exactly when it is at most 8. -/
theorem spinOnlyAdvances : Obligations.SpinOnlyAdvances := by
  unfold Obligations.SpinOnlyAdvances
  exact fun s p => ⟨fun hp => exec_spin (Nat.lt_succ_of_le hp) s, fun hp => exec_spin_of_noStrap (Nat.not_lt.mpr hp) s⟩

/-! ### `WAIT` -/

@[simp] theorem peek_pc (x : Field) (s : State) : (peek x s).2.pc = s.pc := by
  rcases peek_state x s with h | h
  · rw [h]
  · rw [h, countDraws_pc]

@[simp] theorem readEffect_pc (x : Field) (s : State) : (readEffect x s).pc = s.pc := by
  obtain ⟨hpc, -⟩ := readEffect_kept x s
  exact hpc

/-- One poll: the read's side effect happens, and `pc` advances exactly on equality (R220). -/
theorem exec_wait {f : FieldId} {x : Field} (hf : Field.ofId f = some x) (k : BitVec 6) (s : State) :
    exec (.wait f k) s = .next { readEffect x (peek x s).2 with
      pc := if (peek x s).1 = k.setWidth 32 then s.pc + 1 else s.pc } := by
  have hpc : (readEffect x (peek x s).2).pc = s.pc := by rw [readEffect_pc, peek_pc]
  simp only [exec, execWait, hf, immediate, advance, hpc]
  split
  · rfl
  · rw [← hpc]

/-- The poll of a field that is not gated (R110, R111). -/
theorem exec_wait_of_open {f : FieldId} {x : Field} {s : State} (hf : Field.ofId f = some x) (hopen : gated x s = false)
    (k : BitVec 6) :
    exec (.wait f k) s = .next { s with
      pc := if value x s = k.setWidth 32 then s.pc + 1 else s.pc
      adc := { s.adc with eoc := if x = .adcDr then 0 else s.adc.eoc } } := by
  rw [exec_wait hf, peek_open hopen, readEffect_of_open hopen]

/-- The poll of a gated field compares a draw, and has no side effect (R110, R111, log 8). -/
theorem exec_wait_of_gated {f : FieldId} {x : Field} {s : State} (hf : Field.ofId f = some x) (hgated : gated x s = true)
    (k : BitVec 6) :
    exec (.wait f k) s = .next { s with
      pc := if anyOfWidth x s.draws = k.setWidth 32 then s.pc + 1 else s.pc, draws := s.draws + 1 } := by
  rw [exec_wait hf, peek_gated hgated, readEffect_gated ((gated_countDraws x 1 s).trans hgated)]
  rfl

/-- What a poll gives fits the field's width, gated or not, so it is no immediate that does not fit. -/
theorem peek_ne_of_not_fits {x : Field} {k : BitVec 6} (hk : 2 ^ x.width ≤ k.toNat) (s : State) :
    (peek x s).1 ≠ k.setWidth 32 := by
  intro heq
  have hlt := peek_lt x s
  rw [heq, BitVec.toNat_setWidth_of_le (by decide)] at hlt
  exact absurd hlt (Nat.not_lt.mpr hk)

/-- Settles O36: one poll of an open field, one of a gated field with the draw as the value polled, and the immediate
that is never polled. -/
theorem waitPollsOnce : Obligations.WaitPollsOnce := by
  unfold Obligations.WaitPollsOnce
  refine ⟨fun s f x k hf hopen => exec_wait_of_open hf hopen k, fun s f x k hf hgated => ?_, fun s f x k hf hk => ?_⟩
  · exact ⟨anyOfWidth x s.draws, anyOfWidth_lt x s.draws, by rw [peek_gated hgated], exec_wait_of_gated hf hgated k⟩
  · exact ⟨_, exec_wait hf k s, if_neg (peek_ne_of_not_fits hk s)⟩

/-! ### Where `pc` goes (R225) -/

/-- A recorded cause is never 0, which stands for no fault (R38, R461). -/
theorem Cause.code_ne_zero (c : Cause) : c.code ≠ 0 := by
  cases c <;> decide

/-- The read that an operation makes before its write, if it makes one. -/
@[simp] theorem readSource_pc (i : Instr) (n : Nat) (s : State) :
    ((readSource i).elim id readEffect (countDraws n s)).pc = s.pc := by
  cases readSource i with
  | none => rfl
  | some x => exact readEffect_pc x _

/-- `HALT`, `JMP` and `IRET`, which never just advance, write no field. -/
theorem writes_not_transfer {i : Instr} {s : State} {x : Field} {v : BusWord} (h : writes i s = some (x, v)) :
    i ≠ .halt ∧ i ≠ .iret ∧ ∀ a, i ≠ .jmp a := by
  refine ⟨?_, ?_, fun a => ?_⟩ <;> rintro rfl <;> cases h

/-- Settles O20: `pc` and the fault cause, read off every outcome that an operation has. -/
theorem controlTransferIsOnlyThis : Obligations.ControlTransferIsOnlyThis := by
  unfold Obligations.ControlTransferIsOnlyThis
  intro i s t hrunning h
  rcases exec_cases h with ⟨c, n, rfl⟩ | ⟨x, v, n, hwrites, rfl⟩ | ⟨f, x, v, n, rfl, -, rfl⟩ |
    ⟨f, k, x, n, rfl, -, rfl | rfl⟩ | ⟨rfl, rfl⟩ | ⟨hi, rfl⟩ | ⟨a, hi, rfl⟩ | ⟨rfl, -, rfl⟩ | ⟨rfl, -, rfl⟩
  · exact .inl ⟨c.code_ne_zero, rfl⟩
  · exact .inr ⟨by simpa using hrunning, .inl ⟨by simp, writes_not_transfer hwrites⟩⟩
  · exact .inr ⟨by simpa using hrunning, .inl ⟨by simp, by simp⟩⟩
  · exact .inr ⟨by simpa using hrunning, .inl ⟨by simp, by simp⟩⟩
  · exact .inr ⟨by simpa using hrunning, .inr (.inl ⟨by simp, .inr ⟨f, k, rfl⟩⟩)⟩
  · exact .inr ⟨hrunning, .inr (.inl ⟨rfl, .inl rfl⟩)⟩
  · have hadvances : i ≠ .halt ∧ i ≠ .iret ∧ ∀ a, i ≠ .jmp a := by
      rcases hi with rfl | ⟨j, a, rfl⟩ | ⟨j, a, rfl⟩ | ⟨p, rfl⟩ <;> simp
    exact .inr ⟨hrunning, .inl ⟨rfl, hadvances⟩⟩
  · exact .inr ⟨hrunning, .inr (.inr (.inl hi))⟩
  · exact .inr ⟨hrunning, .inl ⟨rfl, by simp⟩⟩
  · exact .inr ⟨hrunning, .inr (.inr (.inr ⟨rfl, rfl⟩))⟩

end Sys2Proof.Machine

/-! The system operations (R240 to R243): what each does in either context, and the interrupt that a sequencer step takes
instead of an operation (R480, R481). -/

namespace Sys2Proof.Machine

/-! ### Taking a pending interrupt -/

@[simp] theorem interruptEntry_ie (s : State) : (interruptEntry s).sys.ie = 0 := by
  unfold interruptEntry
  split <;> rfl

@[simp] theorem interruptEntry_inh (s : State) : (interruptEntry s).sys.inh = 1 := by
  unfold interruptEntry
  split <;> rfl

/-- Which routine an entry goes to (R475). -/
theorem interruptEntry_pc (s : State) : (interruptEntry s).pc = if s.sys.tickp = 1 then 0x38 else 0x20 := by
  unfold interruptEntry
  split <;> rfl

theorem interruptTakeable_iff (s : State) :
    interruptTakeable s = true ↔ s.sys.ie = 1 ∧ (s.sys.tickp = 1 ∨ adcIrq s = true) := by
  simp [interruptTakeable]

/-- The sequencer's turn with an interrupt to take: the entry is the whole step, whatever the word at `pc` (R480, R481). -/
theorem step_of_takeable {s : State} (hturn : sequencerTurn s = true) (hrunning : faulted s = false)
    (htakeable : interruptTakeable s = true) : step s = .next (interruptEntry { s with agenda := s.agenda.tail }) := by
  have htakeable' : interruptTakeable { s with agenda := s.agenda.tail } = true := htakeable
  rw [step_of_sequencerTurn hturn hrunning, seqStep, if_pos htakeable']

/-- The same from the stored bits: interrupts enabled and a request pending. -/
theorem step_of_pending {s : State} (hturn : sequencerTurn s = true) (hcause : s.sys.fcause = 0) (henabled : s.sys.ie = 1)
    (hpending : s.sys.tickp = 1 ∨ adcIrq s = true) :
    step s = .next (interruptEntry { s with agenda := s.agenda.tail }) :=
  step_of_takeable hturn (by simp [faulted, hcause]) ((interruptTakeable_iff s).mpr ⟨henabled, hpending⟩)

/-! ### `NOP` and `HALT` -/

theorem exec_nop (s : State) : exec .nop s = .next (advance s) := rfl

theorem exec_halt (s : State) : exec .halt s = .next s := rfl

/-- Settles O39: the address is 6 bits wide, so its increment is modulo 64. -/
theorem nopOnlyAdvances : Obligations.NopOnlyAdvances := by
  unfold Obligations.NopOnlyAdvances
  refine ⟨by decide, ⟨_, rfl⟩, exec_nop, fun s t h => ?_⟩
  obtain rfl : advance s = t := by simpa [exec_nop] using h
  exact BitVec.toNat_add s.pc 1

theorem quiescent_iff (s : State) : quiescent s = true ↔
    s.sys.inh = 0 ∧ decode (fetch s) = .op .halt ∧ faulted s = false ∧ interruptTakeable s = false := by
  simp [quiescent, and_assoc]

/-- The sequencer's step in a quiescent state executes the `HALT` at which it is parked (R541). -/
theorem executes_of_quiescent {s : State} (hturn : sequencerTurn s = true) (hquiescent : quiescent s = true) :
    executes s = some .halt := by
  obtain ⟨-, hhalt, hrunning, hquiet⟩ := (quiescent_iff s).mp hquiescent
  simp [executes, hturn, hrunning, hquiet, hhalt]

/-- Settles O40: a quiescent step executes the `HALT`, and an entry saves `pc`, which names it. -/
theorem haltParks : Obligations.HaltParks := by
  unfold Obligations.HaltParks
  refine ⟨by decide, exec_halt, fun s hturn hquiescent => ?_, fun s hturn hrunning _ htakeable => ?_⟩
  · rw [step_of_executes (executes_of_quiescent hturn hquiescent), exec_halt]
  · exact ⟨_, step_of_takeable hturn hrunning htakeable, interruptEntry_epc _⟩

/-! ### `EI` and `IRET` -/

theorem exec_ei_of_main {s : State} (h : s.sys.inh = 0) :
    exec .ei s = .next (advance { s with sys := { s.sys with ie := 1 } }) := by
  simp [exec, execEi, h]

theorem exec_ei_of_handler {s : State} (h : s.sys.inh = 1) : exec .ei s = raise .badCtx s := by
  simp [exec, execEi, h]

theorem exec_iret_of_handler {s : State} (h : s.sys.inh = 1) : exec .iret s = .next (interruptReturn s) := by
  simp [exec, execIret, h]

theorem exec_iret_of_main {s : State} (h : s.sys.inh = 0) : exec .iret s = raise .badCtx s := by
  simp [exec, execIret, h]

/-- With interrupts enabled, `EI` in main context is an operation that only advances. -/
theorem exec_ei_of_enabled {s : State} (hmain : s.sys.inh = 0) (henabled : s.sys.ie = 1) :
    exec .ei s = .next (advance s) := by
  have hsys : { s.sys with ie := 1 } = s.sys := by rw [← henabled]
  rw [exec_ei_of_main hmain, hsys]

/-- An operation leaves `SYS.IE` alone; `EI` and `IRET` alone may move it, and only to 1. -/
theorem exec_ie {i : Instr} {s t : State} (h : exec i s = .next t) :
    t.sys.ie = s.sys.ie ∨ ((i = .ei ∨ i = .iret) ∧ t.sys.ie = 1) := by
  rcases exec_cases h with ⟨c, n, rfl⟩ | ⟨x, v, n, -, rfl⟩ | ⟨f, x, v, n, -, -, rfl⟩ | ⟨f, k, x, n, -, -, rfl | rfl⟩ |
    ⟨-, rfl⟩ | ⟨-, rfl⟩ | ⟨a, -, rfl⟩ | ⟨hi, -, rfl⟩ | ⟨hi, -, rfl⟩
  · exact .inl rfl
  · exact .inl (by simp)
  · exact .inl (by simp)
  · exact .inl (by simp)
  · exact .inl (by simp)
  · exact .inl rfl
  · exact .inl rfl
  · exact .inl rfl
  · exact .inr ⟨.inl hi, rfl⟩
  · exact .inr ⟨.inr hi, rfl⟩

/-- Settles O11: after an `EI` in main context interrupts are enabled, so the next step of the sequencer is the entry of
a pending one; the last clause is read off every outcome that an operation has. -/
theorem eiEnablesInMainContext : Obligations.EiEnablesInMainContext := by
  unfold Obligations.EiEnablesInMainContext
  refine ⟨by decide, fun s => exec_ei_of_main, fun s => exec_ei_of_enabled, fun s => exec_ei_of_handler,
    fun s hturn hcause hmain hpending => ?_, fun i s t h henabled => ?_⟩
  · have hentry := step_of_pending (s := advance { s with sys := { s.sys with ie := 1 } }) hturn hcause rfl hpending
    exact ⟨_, _, exec_ei_of_main hmain, hmain, hentry, interruptEntry_inh _, interruptEntry_epc _, interruptEntry_pc _⟩
  · rcases exec_ie h with hkept | ⟨-, hset⟩
    · exact hkept.trans henabled
    · exact hset

/-- Settles O10: after an `IRET` interrupts are enabled and `pc` is the saved address, so a pending request is taken at
once and saves that address again. -/
theorem iretReturnsFromHandler : Obligations.IretReturnsFromHandler := by
  unfold Obligations.IretReturnsFromHandler
  refine ⟨by decide, fun s => exec_iret_of_handler, fun s => exec_iret_of_main,
    fun s hturn hcause hhandler hpending => ?_⟩
  have hentry := step_of_pending (s := interruptReturn s) hturn hcause rfl hpending
  exact ⟨_, _, exec_iret_of_handler hhandler, hentry, interruptEntry_epc _, interruptEntry_ie _, interruptEntry_inh _⟩

end Sys2Proof.Machine

/-! The clock fields and the environment's clock steps (R261 to R273): what a write of `CLK.HSION` or of a gate bit does,
and every way in which a step reaches the clock status that `ClkStable` reads. -/

namespace Sys2Proof.Machine

/-! ### Writes of the oscillator enable (R262) -/

theorem setWidth_bit_eq_zero_iff {v : BusWord} (h : v.toNat < 2) : (v.setWidth 1 : Bit) = 0 ↔ v = 0 := by
  bv_omega

theorem writeField_hsion (v : BusWord) (s : State) :
    writeField .clkHsion v s = { s with clk := writeHsion (v.setWidth 1) s.clk } := rfl

theorem writeHsion_zero (c : Clk) : writeHsion 0 c = { c with hsion := 0, hsirdy := 0 } := rfl

/-- Writing 1 leaves the ready flag alone: only the environment raises it. -/
theorem writeHsion_one (c : Clk) : writeHsion 1 c = { c with hsion := 1 } := rfl

theorem writeHsion_one_of_on {c : Clk} (h : c.hsion = 1) : writeHsion 1 c = c := by
  rw [writeHsion_one, ← h]

/-- Settles O23: the write rule on the bus, and the two operations that carry its two values. -/
theorem oscillatorEnableWrite : Obligations.OscillatorEnableWrite := by
  unfold Obligations.OscillatorEnableWrite
  have hset (s : State) : exec (.set 0x01) s = .next { s with pc := s.pc + 1, clk := writeHsion 1 s.clk } :=
    writeBit_of_bit (f := 0x01) (x := .clkHsion) rfl rfl rfl 1 s
  have hclr (s : State) : exec (.clr 0x01) s = .next { s with pc := s.pc + 1, clk := writeHsion 0 s.clk } :=
    writeBit_of_bit (f := 0x01) (x := .clkHsion) rfl rfl rfl 0 s
  refine ⟨fun s v hv => ?_, hclr, hset, fun s hon => ?_⟩
  · simp only [writeField_hsion, writeHsion, setWidth_bit_eq_zero_iff hv]
  · rw [hset, writeHsion_one_of_on hon]

/-! ### Writes of the gate bits (R263, R265) -/

/-- Clearing a gate bit is never `undefined`. -/
theorem gateUndefined_zero (old : Bit) (c : Clk) : gateUndefined 0 old c = false := rfl

/-- Setting a gate bit is not `undefined` while the clock is stable, nor where the bit is 1 already (log 13). -/
theorem gateUndefined_one {old : Bit} {c : Clk} (h : clkStable c = true ∨ old = 1) : gateUndefined 1 old c = false := by
  rcases h with hstable | hold
  · simp [gateUndefined, hstable]
  · simp [gateUndefined, hold]

theorem writeBit_timen {v : BusWord} {s : State} (hdef : gateUndefined (v.setWidth 1) s.clk.timen s.clk = false) :
    writeBit 0x04 v s = .next { s with pc := s.pc + 1, clk := { s.clk with timen := v.setWidth 1 } } := by
  have hwrite : writeField .clkTimen v s = { s with clk := { s.clk with timen := v.setWidth 1 } } :=
    writeTimen_defined hdef
  rw [writeBit_of_bit (x := .clkTimen) rfl rfl rfl, hwrite]

theorem writeBit_adcen {v : BusWord} {s : State} (hdef : gateUndefined (v.setWidth 1) s.clk.adcen s.clk = false) :
    writeBit 0x05 v s = .next { s with pc := s.pc + 1, clk := { s.clk with adcen := v.setWidth 1 } } := by
  have hwrite : writeField .clkAdcen v s = { s with clk := { s.clk with adcen := v.setWidth 1 } } :=
    writeAdcen_defined hdef
  rw [writeBit_of_bit (x := .clkAdcen) rfl rfl rfl, hwrite]

/-- Settles O24: in each clause the write is not at the `undefined` point, so it only stores. -/
theorem gateBitWrites : Obligations.GateBitWrites := by
  unfold Obligations.GateBitWrites
  exact ⟨fun s h => writeBit_timen (gateUndefined_one h), fun s h => writeBit_adcen (gateUndefined_one h),
    fun s => writeBit_timen (gateUndefined_zero _ _), fun s => writeBit_adcen (gateUndefined_zero _ _)⟩

/-! ### The clock status under what an operation does -/

/-- The clock status, which `ClkStable` is computed from (R263), is as before. -/
structure ClockStatusKept (s t : State) : Prop where
  sws : t.clk.sws = s.clk.sws
  hsion : t.clk.hsion = s.clk.hsion
  hsirdy : t.clk.hsirdy = s.clk.hsirdy

theorem ClockStatusKept.of_clk_eq {s t : State} (h : t.clk = s.clk) : ClockStatusKept s t :=
  ⟨by rw [h], by rw [h], by rw [h]⟩

theorem ClockStatusKept.trans {s t u : State} (hst : ClockStatusKept s t) (htu : ClockStatusKept t u) :
    ClockStatusKept s u :=
  ⟨htu.sws.trans hst.sws, htu.hsion.trans hst.hsion, htu.hsirdy.trans hst.hsirdy⟩

theorem ClockStatusKept.clkStable_eq {s t : State} (h : ClockStatusKept s t) : clkStable t.clk = clkStable s.clk := by
  simp only [clkStable, h.sws, h.hsion, h.hsirdy]

@[simp] theorem readEffect_clk (x : Field) (s : State) : (readEffect x s).clk = s.clk := by
  obtain ⟨-, hclk, -⟩ := readEffect_kept x s
  exact hclk

/-- The read that an operation makes before its write, if it makes one. -/
@[simp] theorem readSource_clk (i : Instr) (n : Nat) (s : State) :
    ((readSource i).elim id readEffect (countDraws n s)).clk = s.clk := by
  cases readSource i with
  | none => rfl
  | some x => exact readEffect_clk x _

/-- A gate bit is no part of the status, and the timer's state drawn at the `undefined` point is not the clock's. -/
theorem writeTimen_clockStatusKept (v : Bit) (s : State) : ClockStatusKept s (writeTimen v s) := by
  unfold writeTimen
  split
  · exact ⟨by simp, by simp, by simp⟩
  · exact ⟨rfl, rfl, rfl⟩

theorem writeAdcen_clockStatusKept (v : Bit) (s : State) : ClockStatusKept s (writeAdcen v s) := by
  unfold writeAdcen
  split <;> exact ⟨rfl, rfl, rfl⟩

theorem writeOpen_clockStatusKept {x : Field} (hx : x ≠ .clkHsion) (v : BusWord) (s : State) :
    ClockStatusKept s (writeOpen x v s) := by
  cases x
  case clkHsion => exact absurd rfl hx
  case clkTimen => exact writeTimen_clockStatusKept _ s
  case clkAdcen => exact writeAdcen_clockStatusKept _ s
  case clkSws | clkHsirdy | clkPpre2 => exact ⟨rfl, rfl, rfl⟩
  case timUg => exact .of_clk_eq ((writeUg_groupOnly _ s).clk (by decide))
  case adcSwstart => exact .of_clk_eq ((writeSwstart_groupOnly _ s).clk (by decide))
  all_goals exact .of_clk_eq ((writeOpen_groupOnly rfl).clk (by decide))

/-- `CLK.HSION` is the only field whose write reaches the clock status: a gated field is of another group, and a gate bit
is no part of it. -/
theorem writeField_clockStatusKept {x : Field} (hx : x ≠ .clkHsion) (v : BusWord) (s : State) :
    ClockStatusKept s (writeField x v s) := by
  cases hgated : gated x s with
  | false =>
    rw [writeField_open hgated]
    exact writeOpen_clockStatusKept hx v s
  | true =>
    have hgroup : x.group ≠ .clk := by
      rcases gated_group hgated with h | h <;> simp [h]
    rw [writeField_gated hgated]
    exact .of_clk_eq ((writeGated_groupOnly x s).clk hgroup)

/-- An operation leaves the clock status alone, or it writes `CLK.HSION`. -/
theorem exec_clockStatus_cases {i : Instr} {s t : State} (h : exec i s = .next t) :
    ClockStatusKept s t ∨
    ∃ v, writes i s = some (.clkHsion, v) ∧ t.clk = writeHsion (v.setWidth 1) s.clk := by
  rcases exec_cases h with ⟨c, n, rfl⟩ | ⟨x, v, n, hwrites, rfl⟩ | ⟨_, x, v, n, -, -, rfl⟩ |
    ⟨_, _, x, n, -, -, rfl | rfl⟩ | ⟨-, rfl⟩ | ⟨-, rfl⟩ | ⟨a, -, rfl⟩ | ⟨-, -, rfl⟩ | ⟨-, -, rfl⟩
  · exact .inl (.of_clk_eq rfl)
  · by_cases hx : x = .clkHsion
    · subst hx
      exact .inr ⟨v, hwrites, by simp [writeField_hsion]⟩
    · have hread := ClockStatusKept.of_clk_eq (readSource_clk i n s)
      exact .inl ((hread.trans (writeField_clockStatusKept hx v _)).trans (.of_clk_eq (advance_clk _)))
  · exact .inl (.of_clk_eq (by simp))
  · exact .inl (.of_clk_eq (by simp))
  · exact .inl (.of_clk_eq (by simp))
  · exact .inl (.of_clk_eq rfl)
  · exact .inl (.of_clk_eq rfl)
  · exact .inl (.of_clk_eq rfl)
  · exact .inl (.of_clk_eq rfl)
  · exact .inl (.of_clk_eq rfl)

/-! ### The agents' steps -/

@[simp] theorem interruptEntry_clk (s : State) : (interruptEntry s).clk = s.clk := by
  unfold interruptEntry
  split <;> rfl

@[simp] theorem envInjected_clk (a b c d : Sample) (s : State) : (envInjected a b c d s).clk = s.clk := by
  unfold envInjected
  split <;> rfl

@[simp] theorem appWrite_clk (c : AppCell) (v : Bit) (s : State) : (appWrite c v s).clk = s.clk := by
  cases c <;> rfl

@[simp] theorem timerTick_clk (s : State) : (timerTick s).clk = s.clk := by
  unfold timerTick
  split
  · exact putTim_clk _ s
  · rfl

@[simp] theorem adcReady_clk (s : State) : (adcReady s).clk = s.clk := by
  unfold adcReady
  split <;> rfl

@[simp] theorem adcComplete_clk (v : Sample) (s : State) : (adcComplete v s).clk = s.clk := by
  unfold adcComplete
  split <;> rfl

/-- Where the step is not enabled, the source is 0 already (R271). -/
theorem envSysclkInternal_eq (s : State) : envSysclkInternal s = { s with clk := { s.clk with sws := 0 } } := by
  unfold envSysclkInternal
  split
  · rename_i h
    rw [← h]
  · rfl

/-- Where the oscillator is enabled and the step is not, the flag is 1 already (R272). -/
theorem envOscReady_of_on {s : State} (h : s.clk.hsion = 1) :
    envOscReady s = { s with clk := { s.clk with hsirdy := 1 } } := by
  unfold envOscReady
  split
  · rfl
  · rename_i hdisabled
    have hready : s.clk.hsirdy = 1 := bit_ne_zero fun h0 => hdisabled ⟨h, h0⟩
    rw [← hready]

theorem envOscReady_of_off {s : State} (h : s.clk.hsion = 0) : envOscReady s = s := by
  simp [envOscReady, h]

/-- Of the agents other than the sequencer, only the environment's two clock steps and reset reach the clock status. -/
theorem agentStep_clockStatus_cases {e : AgentStep} {s t : State} (he : e ≠ .seq) (h : agentStep e s = .next t) :
    ClockStatusKept s t ∨
    (e = .envSysclkInternal ∧ t.clk = { s.clk with sws := 0 }) ∨
    (e = .envOscReady ∧ t.clk = { s.clk with hsirdy := 1 }) ∨
    ∃ src osc, e = .rst src osc := by
  cases e with
  | seq => exact absurd rfl he
  | envSysclkInternal => cases h; exact .inr (.inl ⟨rfl, by rw [envSysclkInternal_eq]⟩)
  | envOscReady =>
    cases h
    rcases bit_zero_or_one s.clk.hsion with hoff | hon
    · exact .inl (.of_clk_eq (by rw [envOscReady_of_off hoff]))
    · exact .inr (.inr (.inl ⟨rfl, by rw [envOscReady_of_on hon]⟩))
  | envTick => cases h; exact .inl (.of_clk_eq (envTick_clk s))
  | envInjected a b c d => cases h; exact .inl (.of_clk_eq (envInjected_clk a b c d s))
  | appRead c => cases h; exact .inl (.of_clk_eq rfl)
  | appWrite c v => cases h; exact .inl (.of_clk_eq (appWrite_clk c v s))
  | timerTick => cases h; exact .inl (.of_clk_eq (timerTick_clk s))
  | adcReady => cases h; exact .inl (.of_clk_eq (adcReady_clk s))
  | adcComplete v => cases h; exact .inl (.of_clk_eq (adcComplete_clk v s))
  | rst src osc => exact .inr (.inr (.inr ⟨src, osc, rfl⟩))

/-! ### What a step does to the clock status -/

/-- A step leaves the clock status alone, or it is one of the four that reach it: a legal write of `CLK.HSION`, the
environment's two clock steps, and reset (R270). -/
theorem step_clockStatus_cases {s t : State} (h : step s = .next t) :
    ClockStatusKept s t ∨
    (∃ v, writesNow s = some (.clkHsion, v) ∧ v.toNat < 2 ∧ t.clk = writeHsion (v.setWidth 1) s.clk) ∨
    (s.agenda.head? = some .envSysclkInternal ∧ t.clk = { s.clk with sws := 0 }) ∨
    (s.agenda.head? = some .envOscReady ∧ t.clk = { s.clk with hsirdy := 1 }) ∨
    resetTurn s = true := by
  rcases step_cases h with ⟨-, rfl⟩ | ⟨i, hi, hexec⟩ | ⟨-, -, -, -, rfl⟩ | ⟨-, -, rfl⟩ | ⟨e, hhead, hne, hagent⟩
  · exact .inl (.of_clk_eq (interruptEntry_clk _))
  · rcases exec_clockStatus_cases hexec with ⟨hsws, hsion, hsirdy⟩ | ⟨v, hwrites, hclk⟩
    · exact .inl ⟨hsws, hsion, hsirdy⟩
    · obtain ⟨-, hlegal⟩ := writes_spec hwrites
      obtain ⟨hfits, -⟩ := (Field.legal_iff .clkHsion v).mp hlegal
      rw [writes_agenda] at hwrites
      exact .inr (.inl ⟨v, by simpa [writesNow, hi] using hwrites, hfits, hclk⟩)
  · exact .inl ⟨rfl, rfl, rfl⟩
  · exact .inl ⟨rfl, rfl, rfl⟩
  · rcases agentStep_clockStatus_cases hne hagent with ⟨hsws, hsion, hsirdy⟩ | ⟨rfl, hclk⟩ | ⟨rfl, hclk⟩ | ⟨src, osc, rfl⟩
    · exact .inl ⟨hsws, hsion, hsirdy⟩
    · exact .inr (.inr (.inl ⟨hhead, hclk⟩))
    · exact .inr (.inr (.inr (.inl ⟨hhead, hclk⟩)))
    · exact .inr (.inr (.inr (.inr (resetTurn_of_head hhead))))

/-- R271: besides reset, only the environment's step changes the system clock, and to the internal oscillator. -/
theorem step_sws_changes {s t : State} (h : step s = .next t) (hne : t.clk.sws ≠ s.clk.sws) :
    (s.agenda.head? = some .envSysclkInternal ∧ t.clk.sws = 0) ∨ resetTurn s = true := by
  rcases step_clockStatus_cases h with hkept | ⟨v, -, -, hclk⟩ | ⟨hhead, hclk⟩ | ⟨-, hclk⟩ | hreset
  · exact absurd hkept.sws hne
  · exact absurd (by rw [hclk, writeHsion]) hne
  · exact .inl ⟨hhead, by rw [hclk]⟩
  · exact absurd (by rw [hclk]) hne
  · exact .inr hreset

/-- Settles O21. -/
theorem systemClockMovesOnlyToInternal : Obligations.SystemClockMovesOnlyToInternal := by
  unfold Obligations.SystemClockMovesOnlyToInternal
  refine ⟨fun s rest h => ?_, fun _ _ => step_sws_changes⟩
  rw [step_of_agent h, agentStep, envSysclkInternal_eq]

/-- R272: besides reset, only the environment's step raises the ready flag; a write of `CLK.HSION` does not. -/
theorem step_hsirdy_rises {s t : State} (h : step s = .next t) (hreset : resetTurn s = false) (h0 : s.clk.hsirdy = 0)
    (h1 : t.clk.hsirdy = 1) : s.agenda.head? = some .envOscReady := by
  have hrise : t.clk.hsirdy ≠ 0 := by rw [h1]; decide
  rcases step_clockStatus_cases h with hkept | ⟨v, -, -, hclk⟩ | ⟨-, hclk⟩ | ⟨hhead, -⟩ | hreset'
  · exact absurd (hkept.hsirdy.trans h0) hrise
  · exact absurd (by simp [hclk, writeHsion, h0]) hrise
  · exact absurd (by rw [hclk, h0]) hrise
  · exact hhead
  · exact absurd hreset' (Bool.eq_false_iff.mp hreset)

/-- R262, R272: besides reset, the ready flag falls only by a write that leaves the oscillator disabled. -/
theorem step_hsirdy_falls {s t : State} (h : step s = .next t) (hreset : resetTurn s = false) (h1 : s.clk.hsirdy = 1)
    (h0 : t.clk.hsirdy = 0) : t.clk.hsion = 0 := by
  have hfall : t.clk.hsirdy ≠ 1 := by rw [h0]; decide
  rcases step_clockStatus_cases h with hkept | ⟨v, -, -, hclk⟩ | ⟨-, hclk⟩ | ⟨-, hclk⟩ | hreset'
  · exact absurd (hkept.hsirdy.trans h1) hfall
  · rcases bit_zero_or_one (v.setWidth 1) with hv | hv
    · rw [hclk, hv, writeHsion_zero]
    · exact absurd (by rw [hclk, hv, writeHsion_one, h1]) hfall
  · exact absurd (by rw [hclk, h1]) hfall
  · exact absurd (by rw [hclk]) hfall
  · exact absurd hreset' (Bool.eq_false_iff.mp hreset)

/-- Settles O22. -/
theorem oscillatorReadyOnlyRises : Obligations.OscillatorReadyOnlyRises := by
  unfold Obligations.OscillatorReadyOnlyRises
  refine ⟨fun s rest h => ⟨fun hon => ?_, fun hoff => ?_⟩, fun _ _ => step_hsirdy_rises, fun _ _ => step_hsirdy_falls⟩
  · rw [step_of_agent h]
    exact congrArg Host.Outcome.next (envOscReady_of_on hon)
  · rw [step_of_agent h]
    exact congrArg Host.Outcome.next (envOscReady_of_off hoff)

theorem clkStable_iff (c : Clk) : clkStable c = true ↔ c.sws = 0 ∧ c.hsion = 1 ∧ c.hsirdy = 1 := by
  simp [clkStable, and_assoc]

/-- Settles O25: of the steps that reach the clock status, the environment's two write what a stable clock holds already,
and so does a write of 1 to `CLK.HSION`. -/
theorem stableClockStaysStable : Obligations.StableClockStaysStable := by
  unfold Obligations.StableClockStaysStable
  intro s t h hstable hreset hwrites
  obtain ⟨hsws, hsion, hsirdy⟩ := (clkStable_iff s.clk).mp hstable
  rcases step_clockStatus_cases h with hkept | ⟨v, hv, hfits, hclk⟩ | ⟨-, hclk⟩ | ⟨-, hclk⟩ | hreset'
  · rw [hkept.clkStable_eq, hstable]
  · have hnonzero : v ≠ 0 := by
      rintro rfl
      exact hwrites hv
    have hone : (v.setWidth 1 : Bit) = 1 := bit_ne_zero (mt (setWidth_bit_eq_zero_iff hfits).mp hnonzero)
    rw [hclk, hone, writeHsion_one_of_on hsion, hstable]
  · exact (clkStable_iff _).mpr (by simp [hclk, hsion, hsirdy])
  · exact (clkStable_iff _).mpr (by simp [hclk, hsws, hsion])
  · exact absurd hreset' (Bool.eq_false_iff.mp hreset)

end Sys2Proof.Machine

/-! The trigger timer (R290 to R312): what writes of its fields leave, what one tick does, and where a timer with constant
active values stands after any number of ticks. -/

namespace Sys2Proof.Machine

/-! ### Writes of the preload registers (R292, R293) -/

theorem writeField_timPsc {s : State} (hclock : s.clk.timen = 1) (v : BitVec 16) :
    writeField .timPsc (v.setWidth 32) s = { s with tim := { s.tim with psc := v } } := by
  rw [writeField_open (gated_tim_of_timen rfl hclock), writeOpen_plain rfl, storeField, setWidth_bus_self (by decide)]

theorem writeField_timArr {s : State} (hclock : s.clk.timen = 1) (v : BitVec 16) :
    writeField .timArr (v.setWidth 32) s = { s with tim := writeArr v s.tim } := by
  rw [writeField_open (gated_tim_of_timen rfl hclock), writeOpen, setWidth_bus_self (by decide)]

theorem writeArr_of_direct {t : Tim} (h : t.arpe = 0) (v : BitVec 16) :
    writeArr v t = { t with arr := v, arrA := v } := by
  rw [writeArr, if_pos h]

theorem writeArr_of_preload {t : Tim} (h : t.arpe = 1) (v : BitVec 16) : writeArr v t = { t with arr := v } := by
  rw [writeArr, if_neg (by rw [h]; decide)]

/-- `WRP` to a 16-bit field that takes all values of its width: every strap is legal there (R108, R181). -/
theorem exec_wrp_data {f : FieldId} {x : Field} (hf : Field.ofId f = some x) (hw : x.writable = true)
    (hwidth : x.width = 16) (hlisted : ∀ v, x.listed v = true) {p : StrapId} (hp : p.toNat < 9) (s : State) :
    exec (.wrp f p) s =
      .next { writeField x ((s.param[p.toNat]'hp).setWidth 32) s with pc := s.pc + 1 } := by
  rw [exec_wrp hf hp, if_pos hw, writeChecked_of_legal (Field.legal_data hwidth hlisted _)]

theorem exec_wrp_timPsc {s : State} (hclock : s.clk.timen = 1) {p : StrapId} (hp : p.toNat < 9) :
    exec (.wrp 0x08 p) s = .next { s with pc := s.pc + 1, tim := { s.tim with psc := s.param[p.toNat]'hp } } := by
  rw [exec_wrp_data (x := .timPsc) rfl rfl rfl (fun _ => rfl) hp, writeField_timPsc hclock]

theorem exec_wrp_timArr {s : State} (hclock : s.clk.timen = 1) {p : StrapId} (hp : p.toNat < 9) :
    exec (.wrp 0x09 p) s = .next { s with pc := s.pc + 1, tim := writeArr (s.param[p.toNat]'hp) s.tim } := by
  rw [exec_wrp_data (x := .timArr) rfl rfl rfl (fun _ => rfl) hp, writeField_timArr hclock]

/-- Settles O41: the two write rules, then `WRP` as the write of a strap that is always legal there. -/
theorem timerPreloadWrites : Obligations.TimerPreloadWrites := by
  unfold Obligations.TimerPreloadWrites
  refine ⟨fun s v hclock => ⟨writeField_timPsc hclock v, writeField_timArr hclock v⟩,
    fun s p hp hclock => ⟨exec_wrp_timPsc hclock hp, fun hdirect => ?_, fun hpreload => ?_⟩⟩
  · rw [exec_wrp_timArr hclock, writeArr_of_direct hdirect]
  · rw [exec_wrp_timArr hclock, writeArr_of_preload hpreload]

/-! ### The output, and the writes that may move it (R294, R295, R298, R310) -/

theorem oc1ref_eq_ite (t : Tim) : oc1ref t = if t.oc1m = 6 ∧ t.cnt.toNat < t.ccrA.toNat then 1 else 0 := by
  split
  · rename_i hhigh
    exact (oc1ref_eq_one t).mpr hhigh
  · rename_i hlow
    exact (oc1ref_eq_zero t).mpr hlow

theorem oc1ref_of_frozen {t : Tim} (h : t.oc1m = 0) : oc1ref t = 0 :=
  (oc1ref_eq_zero t).mpr fun ⟨hpwm, _⟩ => absurd (h.symm.trans hpwm) (by decide)

theorem value_timOc1ref (s : State) :
    value .timOc1ref s = if s.tim.oc1m = 6 ∧ s.tim.cnt.toNat < s.tim.ccrA.toNat then 1 else 0 := by
  rw [value, oc1ref_eq_ite]
  split <;> rfl

/-- A timer put back as it was moves no output, so no edge follows (R311). -/
theorem putTim_self (s : State) : putTim s.tim s = s := by
  have hsame (a b : Bit) (hne : a ≠ b) : ¬(oc1ref s.tim = a ∧ oc1ref s.tim = b) :=
    fun ⟨ha, hb⟩ => hne (ha.symm.trans hb)
  rw [putTim, evalEdge, if_neg (hsame 0 1 (by decide)), if_neg (hsame 1 0 (by decide))]

section
variable {s : State} (hclock : s.clk.timen = 1)
include hclock

theorem writeField_timCcr1 (v : BusWord) :
    writeField .timCcr1 v s = putTim (writeCcr1 (v.setWidth 16) s.tim) s := by
  rw [writeField_open (gated_tim_of_timen rfl hclock), writeOpen]

theorem writeField_timOc1m (v : BusWord) :
    writeField .timOc1m v s = putTim { s.tim with oc1m := v.setWidth 3 } s := by
  rw [writeField_open (gated_tim_of_timen rfl hclock)]
  rfl

theorem writeField_timUg (v : BusWord) : writeField .timUg v s = writeUg (v.setWidth 1) s := by
  rw [writeField_open (gated_tim_of_timen rfl hclock), writeOpen]

end

theorem writeUg_zero (s : State) : writeUg 0 s = s := rfl

/-- With both preload enables set the command is an update event (R298, R304). -/
theorem writeUg_one {s : State} (hoc1pe : s.tim.oc1pe = 1) (harpe : s.tim.arpe = 1) :
    writeUg 1 s = putTim (updateEvent s.tim) s := by
  have hdefined : updateUndefined s.tim = false := by
    rw [updateUndefined, hoc1pe, harpe]
    rfl
  rw [writeUg, if_neg (by decide), hdefined, if_neg (by decide)]

/-- The writes that may move the output touch the timer alone, and the edge evaluation follows (R311). -/
theorem writeField_eq_putTim {s : State} (hclock : s.clk.timen = 1) {x : Field} (v : BusWord)
    (hx : x = .timCcr1 ∨ x = .timOc1m ∨ (x = .timUg ∧ s.tim.oc1pe = 1 ∧ s.tim.arpe = 1)) :
    ∃ t, writeField x v s = putTim t s := by
  rcases hx with rfl | rfl | ⟨rfl, hoc1pe, harpe⟩
  · exact ⟨_, writeField_timCcr1 hclock v⟩
  · exact ⟨_, writeField_timOc1m hclock v⟩
  · rw [writeField_timUg hclock]
    rcases bit_zero_or_one (v.setWidth 1) with hv | hv
    · exact ⟨s.tim, by rw [hv, writeUg_zero, putTim_self]⟩
    · exact ⟨updateEvent s.tim, by rw [hv, writeUg_one hoc1pe harpe]⟩

/-- Settles O42: the output's equation, then each write as the timer it puts. -/
theorem outputMovingWrites : Obligations.OutputMovingWrites := by
  unfold Obligations.OutputMovingWrites
  refine ⟨fun s => ⟨value_timOc1ref s, rfl, rfl, fun hfrozen => ⟨oc1ref_of_frozen hfrozen, ?_⟩⟩,
    fun s hclock => ⟨fun v => ?_, fun v => ?_, fun hoc1pe harpe => ?_, writeField_timUg hclock 0, fun x v hx => ?_⟩⟩
  · rw [value, oc1ref_of_frozen hfrozen]
    rfl
  · rw [writeField_timCcr1 hclock, putTim_tim, writeCcr1]
  · rw [writeField_timOc1m hclock, putTim_tim]
  · have hug : writeField .timUg 1 s = writeUg 1 s := writeField_timUg hclock 1
    rw [hug, writeUg_one hoc1pe harpe, putTim_tim, updateEvent]
  · obtain ⟨t, ht⟩ := writeField_eq_putTim hclock v hx
    rw [ht, putTim_tim]

/-! ### One tick (R300, R301, R304) -/

theorem timerTickEnabled_iff (s : State) : timerTickEnabled s = true ↔ s.clk.timen = 1 ∧ s.tim.cen = 1 := by
  simp [timerTickEnabled]

theorem timerTick_of_running {s : State} (h : s.clk.timen = 1 ∧ s.tim.cen = 1) :
    timerTick s = putTim (tickTim s.tim) s := by
  rw [timerTick, if_pos ((timerTickEnabled_iff s).mpr h)]

theorem timerTick_of_stopped {s : State} (h : ¬(s.clk.timen = 1 ∧ s.tim.cen = 1)) : timerTick s = s := by
  rw [timerTick, if_neg (mt (timerTickEnabled_iff s).mp h)]

/-- The period is the active period: `ARR_OFFSET` is 0 (log 15). -/
theorem periodSteps_eq (t : Tim) : periodSteps t = t.arrA.toNat := rfl

theorem periodSteps_eq_zero_iff (t : Tim) : periodSteps t = 0 ↔ t.arrA = 0 := by
  rw [periodSteps_eq]
  exact BitVec.toNat_inj (y := 0)

theorem arrA_pos {t : Tim} (h : t.arrA ≠ 0) : 0 < t.arrA.toNat :=
  Nat.pos_of_ne_zero (mt (periodSteps_eq_zero_iff t).mp h)

theorem counterStep_of_blocked {t : Tim} (h : t.arrA = 0) : counterStep t = t := by
  rw [counterStep, if_pos ((periodSteps_eq_zero_iff t).mpr h)]

section
variable {t : Tim} (hperiod : t.arrA ≠ 0)
include hperiod

theorem counterStep_of_end (h : t.arrA.toNat ≤ t.cnt.toNat + 1) : counterStep t = updateEvent t := by
  rw [counterStep, if_neg (mt (periodSteps_eq_zero_iff t).mp hperiod), periodSteps_eq, if_pos h]

theorem counterStep_of_within (h : t.cnt.toNat + 1 < t.arrA.toNat) : counterStep t = { t with cnt := t.cnt + 1 } := by
  rw [counterStep, if_neg (mt (periodSteps_eq_zero_iff t).mp hperiod), periodSteps_eq, if_neg (Nat.not_le.mpr h)]

end

theorem tickTim_of_prescaling {t : Tim} (h : t.pscCnt.toNat < t.pscA.toNat) :
    tickTim t = { t with pscCnt := t.pscCnt + 1 } := by
  rw [tickTim, if_pos h]

section
variable {t : Tim} (hprescaled : t.pscA.toNat ≤ t.pscCnt.toNat)
include hprescaled

theorem tickTim_of_prescaled : tickTim t = counterStep { t with pscCnt := 0 } := by
  rw [tickTim, if_neg (Nat.not_lt.mpr hprescaled)]

theorem tickTim_of_blocked (h : t.arrA = 0) : tickTim t = { t with pscCnt := 0 } :=
  (tickTim_of_prescaled hprescaled).trans (counterStep_of_blocked h)

theorem tickTim_of_end (hperiod : t.arrA ≠ 0) (h : t.arrA.toNat ≤ t.cnt.toNat + 1) : tickTim t = updateEvent t :=
  (tickTim_of_prescaled hprescaled).trans (counterStep_of_end hperiod h)

theorem tickTim_of_within (hperiod : t.arrA ≠ 0) (h : t.cnt.toNat + 1 < t.arrA.toNat) :
    tickTim t = { t with cnt := t.cnt + 1, pscCnt := 0 } :=
  (tickTim_of_prescaled hprescaled).trans (counterStep_of_within hperiod h)

end

/-- Settles O44: the agent's step when enabled and when not, then the four cases of a tick. -/
theorem timerTickCounts : Obligations.TimerTickCounts := by
  unfold Obligations.TimerTickCounts
  refine ⟨fun s rest hagenda => ⟨fun hstopped => ?_, fun htimen hcen => ?_⟩,
    fun t => ⟨tickTim_of_prescaling, tickTim_of_blocked, tickTim_of_end, tickTim_of_within⟩⟩
  · rw [step_of_agent hagenda]
    exact congrArg Host.Outcome.next (timerTick_of_stopped hstopped)
  · rw [step_of_agent hagenda]
    exact congrArg Host.Outcome.next (timerTick_of_running ⟨htimen, hcen⟩)

/-! ### The successor under division (for R305 and R312) -/

/-- Counting one further either raises the remainder, or completes the divisor and restarts it. -/
theorem succ_div_mod_cases {q : Nat} (hq : 0 < q) (n : Nat) :
    (n % q + 1 < q ∧ (n + 1) / q = n / q ∧ (n + 1) % q = n % q + 1) ∨
    (n % q + 1 = q ∧ (n + 1) / q = n / q + 1 ∧ (n + 1) % q = 0) := by
  have hsplit := Nat.mod_add_div n q
  rcases Nat.lt_or_eq_of_le (Nat.mod_lt n hq) with hlt | heq
  · exact .inl ⟨hlt, (Nat.div_mod_unique hq).mpr ⟨by omega, hlt⟩⟩
  · exact .inr ⟨heq, (Nat.div_mod_unique hq).mpr ⟨by rw [Nat.mul_succ]; omega, hq⟩⟩

/-- Counting modulo `N`, the threshold `D` is crossed upwards exactly by reaching it. -/
theorem mod_lt_and_succ_ge_iff {n D N : Nat} (h0 : 0 < D) (hN : D < N) :
    (n % N < D ∧ ¬(n + 1) % N < D) ↔ (n + 1) % N = D := by
  rcases succ_div_mod_cases (h0.trans hN) n with ⟨hlt, -, hmod⟩ | ⟨heq, -, hmod⟩ <;> omega

/-- Counting modulo `N`, the threshold `D` is crossed downwards exactly by wrapping. -/
theorem mod_ge_and_succ_lt_iff {n D N : Nat} (h0 : 0 < D) (hN : D < N) :
    (¬n % N < D ∧ (n + 1) % N < D) ↔ (n + 1) % N = 0 := by
  rcases succ_div_mod_cases (h0.trans hN) n with ⟨hlt, -, hmod⟩ | ⟨heq, -, hmod⟩ <;> omega

/-! ### Many ticks (R305) -/

/-- A number below a register's value, counted up once more, is the register counted up once more. -/
theorem ofNat_succ_eq (k : Nat) : BitVec.ofNat 16 k + 1 = BitVec.ofNat 16 (k + 1) :=
  (BitVec.ofNat_add k 1).symm

/-- From a reset prescaler counter on, only that counter moves until it has reached the active prescaler. -/
theorem iterate_tickTim_of_prescaling {t : Tim} (hstart : t.pscCnt = 0) {k : Nat} (hk : k ≤ t.pscA.toNat) :
    tickTim^[k] t = { t with pscCnt := BitVec.ofNat 16 k } := by
  induction k with
  | zero =>
    show t = { t with pscCnt := 0 }
    rw [← hstart]
  | succ k ih =>
    have hcount : (BitVec.ofNat 16 k).toNat < t.pscA.toNat := by
      rw [BitVec.toNat_ofNat]
      exact lt_of_le_of_lt (Nat.mod_le _ _) hk
    rw [Function.iterate_succ_apply', ih (Nat.le_of_succ_le hk), tickTim_of_prescaling hcount, ofNat_succ_eq]

/-- The counter steps at the tick after the prescaler counter has reached the active prescaler. -/
theorem iterate_tickTim_of_prescaled {t : Tim} (hstart : t.pscCnt = 0) :
    tickTim^[t.pscA.toNat + 1] t = counterStep t := by
  have hreached : t.pscA.toNat ≤ (BitVec.ofNat 16 t.pscA.toNat).toNat := by
    rw [BitVec.ofNat_toNat, BitVec.setWidth_eq]
  rw [Function.iterate_succ_apply', iterate_tickTim_of_prescaling hstart le_rfl, tickTim_of_prescaled hreached,
    ← hstart]

/-- A timer with a period at the period's start, with constant active values: the preload values are the active ones,
so an update event changes none of them (R304). -/
structure PeriodStart (t : Tim) : Prop where
  pscCnt : t.pscCnt = 0
  cnt : t.cnt = 0
  psc : t.psc = t.pscA
  arr : t.arr = t.arrA
  ccr1 : t.ccr1 = t.ccrA
  period : t.arrA ≠ 0

/-- There both counters are reset already. -/
theorem PeriodStart.restart_eq {t : Tim} (h : PeriodStart t) : { t with cnt := 0, pscCnt := 0 } = t := by
  obtain ⟨hpscCnt, hcnt, -, -, -, -⟩ := h
  cases t
  simp_all

/-- There an update event changes nothing. -/
theorem PeriodStart.updateEvent_eq {t : Tim} (h : PeriodStart t) : updateEvent t = t := by
  obtain ⟨hpscCnt, hcnt, hpsc, harr, hccr1, -⟩ := h
  cases t
  simp_all [updateEvent]

/-- The ticks of one counter step (R305). -/
def prescale (t : Tim) : Nat := t.pscA.toNat + 1

theorem prescale_pos (t : Tim) : 0 < prescale t := Nat.succ_pos _

/-- The timer `n` ticks after a period's start, in closed form (R305). -/
def afterTicks (t : Tim) (n : Nat) : Tim :=
  { t with
    cnt := BitVec.ofNat 16 (n / prescale t % t.arrA.toNat)
    pscCnt := BitVec.ofNat 16 (n % prescale t) }

theorem afterTicks_pscCnt_toNat (t : Tim) (n : Nat) : (afterTicks t n).pscCnt.toNat = n % prescale t := by
  have hrest : n % prescale t < prescale t := Nat.mod_lt n (prescale_pos t)
  have hfits : prescale t ≤ 2 ^ 16 := t.pscA.isLt
  rw [afterTicks, BitVec.toNat_ofNat, Nat.mod_eq_of_lt (hrest.trans_le hfits)]

theorem afterTicks_cnt_toNat {t : Tim} (hperiod : t.arrA ≠ 0) (n : Nat) :
    (afterTicks t n).cnt.toNat = n / prescale t % t.arrA.toNat := by
  have hrest : n / prescale t % t.arrA.toNat < t.arrA.toNat := Nat.mod_lt _ (arrA_pos hperiod)
  rw [afterTicks, BitVec.toNat_ofNat, Nat.mod_eq_of_lt (hrest.trans t.arrA.isLt)]

/-- At a period's boundary the closed form is the start. -/
theorem afterTicks_of_boundary {t : Tim} (h : PeriodStart t) {n : Nat} (hcnt : n / prescale t % t.arrA.toNat = 0)
    (hpsc : n % prescale t = 0) : afterTicks t n = t := by
  rw [afterTicks, hcnt, hpsc]
  exact h.restart_eq

/-- The closed form follows the tick: the prescaler counter counts, or it restarts and the counter counts or restarts. -/
theorem tickTim_afterTicks {t : Tim} (h : PeriodStart t) (n : Nat) : tickTim (afterTicks t n) = afterTicks t (n + 1) := by
  have hpsc := afterTicks_pscCnt_toNat t n
  have hcnt := afterTicks_cnt_toNat h.period n
  rcases succ_div_mod_cases (prescale_pos t) n with ⟨hlt, hdiv, hmod⟩ | ⟨heq, hdiv, hmod⟩
  · have hcount : (afterTicks t n).pscCnt.toNat < (afterTicks t n).pscA.toNat := by
      rw [hpsc]
      exact Nat.lt_of_succ_lt_succ hlt
    rw [tickTim_of_prescaling hcount]
    simp only [afterTicks, hdiv, hmod, ofNat_succ_eq]
  · have hreached : (afterTicks t n).pscA.toNat ≤ (afterTicks t n).pscCnt.toNat := by
      rw [hpsc]
      exact Nat.le_of_succ_le_succ heq.ge
    rcases succ_div_mod_cases (arrA_pos h.period) (n / prescale t) with ⟨hwithin, -, hstep⟩ | ⟨hend, -, hstep⟩
    · rw [tickTim_of_within hreached h.period (by rw [hcnt]; exact hwithin)]
      simp only [afterTicks, hdiv, hmod, hstep, ofNat_succ_eq]
      rfl
    · have hsame : updateEvent (afterTicks t n) = updateEvent t := rfl
      rw [tickTim_of_end hreached h.period (by rw [hcnt]; exact hend.ge), hsame, h.updateEvent_eq,
        afterTicks_of_boundary h (by rw [hdiv, hstep]) hmod]

theorem iterate_tickTim_eq_afterTicks {t : Tim} (h : PeriodStart t) (n : Nat) : tickTim^[n] t = afterTicks t n := by
  induction n with
  | zero => exact (afterTicks_of_boundary h (by rw [Nat.zero_div, Nat.zero_mod]) (Nat.zero_mod _)).symm
  | succ n ih => rw [Function.iterate_succ_apply', ih, tickTim_afterTicks h]

/-- Settles O45: the prescaler's count from any state, then the closed form of the timer after `n` ticks. -/
theorem prescalerDividesTicks : Obligations.PrescalerDividesTicks := by
  unfold Obligations.PrescalerDividesTicks
  refine ⟨fun t hstart => ⟨fun k => iterate_tickTim_of_prescaling hstart, iterate_tickTim_of_prescaled hstart⟩,
    fun t n hpscCnt hcnt hpsc harr hccr1 hperiod => ?_, fun t hpscCnt hcnt hpsc harr hccr1 hperiod => ?_⟩
  · rw [iterate_tickTim_eq_afterTicks ⟨hpscCnt, hcnt, hpsc, harr, hccr1, hperiod⟩]
    exact ⟨afterTicks_cnt_toNat hperiod n, afterTicks_pscCnt_toNat t n⟩
  · have hstart : PeriodStart t := ⟨hpscCnt, hcnt, hpsc, harr, hccr1, hperiod⟩
    have hdiv : t.arrA.toNat * (t.pscA.toNat + 1) / prescale t = t.arrA.toNat :=
      Nat.mul_div_cancel _ (prescale_pos t)
    rw [iterate_tickTim_eq_afterTicks hstart]
    exact afterTicks_of_boundary hstart (by rw [hdiv, Nat.mod_self]) (Nat.mul_mod_left _ _)

/-! ### The output over many ticks (R310, R312) -/

section
variable {t : Tim} (hpwm : t.oc1m = 6) (hstart : PeriodStart t)
include hpwm hstart

/-- The output after `n` ticks, by the counter steps since the period's start. -/
theorem oc1ref_iterate_eq_one_iff (n : Nat) :
    oc1ref (tickTim^[n] t) = 1 ↔ n / prescale t % t.arrA.toNat < t.ccrA.toNat := by
  rw [iterate_tickTim_eq_afterTicks hstart, oc1ref_eq_one, afterTicks_cnt_toNat hstart.period]
  exact and_iff_right hpwm

/-- The output after `n` ticks, by the ticks since the period's start. -/
theorem oc1ref_iterate_eq_one_iff_ticks (n : Nat) :
    oc1ref (tickTim^[n] t) = 1 ↔ n % (t.arrA.toNat * prescale t) < t.ccrA.toNat * prescale t := by
  rw [oc1ref_iterate_eq_one_iff hpwm hstart, ← Nat.mod_mul_left_div_self, Nat.div_lt_iff_lt_mul (prescale_pos t)]

theorem oc1ref_iterate_eq_zero_iff_ticks (n : Nat) :
    oc1ref (tickTim^[n] t) = 0 ↔ ¬n % (t.arrA.toNat * prescale t) < t.ccrA.toNat * prescale t := by
  rw [← oc1ref_iterate_eq_one_iff_ticks hpwm hstart, oc1ref_eq_zero, oc1ref_eq_one]

/-- The falling and the rising edge of a period, where the compare value lies inside it. -/
theorem output_edges_iff (hpos : 0 < t.ccrA.toNat) (hwithin : t.ccrA.toNat < t.arrA.toNat) (n : Nat) :
    ((oc1ref (tickTim^[n] t) = 1 ∧ oc1ref (tickTim^[n + 1] t) = 0) ↔
      (n + 1) % (t.arrA.toNat * prescale t) = t.ccrA.toNat * prescale t) ∧
    ((oc1ref (tickTim^[n] t) = 0 ∧ oc1ref (tickTim^[n + 1] t) = 1) ↔ (n + 1) % (t.arrA.toNat * prescale t) = 0) := by
  have hprescale := prescale_pos t
  have hpos' : 0 < t.ccrA.toNat * prescale t := Nat.mul_pos hpos hprescale
  have hwithin' : t.ccrA.toNat * prescale t < t.arrA.toNat * prescale t := Nat.mul_lt_mul_of_pos_right hwithin hprescale
  simp only [oc1ref_iterate_eq_one_iff_ticks hpwm hstart, oc1ref_iterate_eq_zero_iff_ticks hpwm hstart]
  exact ⟨mod_lt_and_succ_ge_iff hpos' hwithin', mod_ge_and_succ_lt_iff hpos' hwithin'⟩

/-- A compare value at or above the period keeps the output high. -/
theorem oc1ref_iterate_of_ge (h : t.arrA.toNat ≤ t.ccrA.toNat) (n : Nat) : oc1ref (tickTim^[n] t) = 1 :=
  (oc1ref_iterate_eq_one_iff hpwm hstart n).mpr ((Nat.mod_lt _ (arrA_pos hstart.period)).trans_le h)

end

theorem oc1ref_of_ccrA_zero {t : Tim} (h : t.ccrA = 0) : oc1ref t = 0 := by
  rw [oc1ref_eq_zero, h]
  exact fun ⟨_, hlt⟩ => Nat.not_lt_zero _ hlt

/-- Without a period a tick moves the prescaler counter alone (R301). -/
theorem tickTim_of_no_period {t : Tim} (h : t.arrA = 0) : ∃ p, tickTim t = { t with pscCnt := p } := by
  rcases Nat.lt_or_ge t.pscCnt.toNat t.pscA.toNat with hlt | hge
  · exact ⟨_, tickTim_of_prescaling hlt⟩
  · exact ⟨_, tickTim_of_blocked hge h⟩

theorem iterate_tickTim_of_no_period {t : Tim} (h : t.arrA = 0) (n : Nat) :
    ∃ p, tickTim^[n] t = { t with pscCnt := p } := by
  induction n with
  | zero => exact ⟨t.pscCnt, rfl⟩
  | succ n ih =>
    obtain ⟨p, hp⟩ := ih
    rw [Function.iterate_succ_apply', hp]
    exact tickTim_of_no_period (t := { t with pscCnt := p }) h

/-- The output does not read the prescaler counter (R310), so it stands still where only that counter moves. -/
theorem oc1ref_iterate_of_no_period {t : Tim} (h : t.arrA = 0) (n : Nat) : oc1ref (tickTim^[n] t) = oc1ref t := by
  obtain ⟨p, hp⟩ := iterate_tickTim_of_no_period h n
  rw [hp]
  rfl

/-- Settles O46: with a period the output is a comparison of the tick count modulo the period's ticks; without one it
stands still. -/
theorem oneTriggerEdgePerPeriod : Obligations.OneTriggerEdgePerPeriod := by
  unfold Obligations.OneTriggerEdgePerPeriod
  intro t n hpwm hpscCnt hcnt hpsc harr hccr1
  have hstart (hperiod : t.arrA ≠ 0) : PeriodStart t := ⟨hpscCnt, hcnt, hpsc, harr, hccr1, hperiod⟩
  refine ⟨fun hpos hwithin => ?_, fun hge hperiod => oc1ref_iterate_of_ge hpwm (hstart hperiod) hge n,
    fun hzero => ?_, fun hperiod => oc1ref_iterate_of_no_period hperiod n⟩
  · have hperiod : t.arrA ≠ 0 := fun h0 => by
      rw [h0] at hwithin
      exact Nat.not_lt_zero _ hwithin
    exact output_edges_iff hpwm (hstart hperiod) hpos hwithin n
  · rcases eq_or_ne t.arrA 0 with hperiod | hperiod
    · rw [oc1ref_iterate_of_no_period hperiod, oc1ref_of_ccrA_zero hzero]
    · rw [iterate_tickTim_eq_afterTicks (hstart hperiod), oc1ref_of_ccrA_zero (t := afterTicks t n) hzero]

end Sys2Proof.Machine

/-! The sampling converter (R340 to R379): when an edge of the timer's output starts a conversion, what writes of the
converter's fields do, and what its own steps do. -/

namespace Sys2Proof.Machine

/-! ### The trigger pulse (R320, R321, R365, R366) -/

theorem pulseAccepted_iff (e : Edge) (s : State) : pulseAccepted e s = true ↔
    s.clk.adcen = 1 ∧ s.adc.adon = 1 ∧ s.adc.adons = 1 ∧ s.adc.armed = 1 ∧ s.adc.busy = 0 ∧
      edgeMatch s.adc.exten e = true := by
  simp [pulseAccepted, and_assoc]

theorem triggerPulse_of_accepted {e : Edge} {s : State} (h : s.adc.extsel = 7 ∧ pulseAccepted e s = true) :
    triggerPulse e s = { s with adc := startConversion s.adc } := by
  rw [triggerPulse, if_pos h.1, acceptPulse, if_pos h.2]

theorem triggerPulse_of_dropped {e : Edge} {s : State} (h : ¬(s.adc.extsel = 7 ∧ pulseAccepted e s = true)) :
    triggerPulse e s = s := by
  rcases triggerPulse_cases e s with hdropped | ⟨hsource, haccepted, -⟩
  · exact hdropped
  · exact absurd ⟨hsource, haccepted⟩ h

theorem edgeMatch_rising_iff (exten : BitVec 2) : edgeMatch exten .rising = true ↔ exten = 1 ∨ exten = 3 := by
  simp [edgeMatch]

theorem edgeMatch_falling_iff (exten : BitVec 2) : edgeMatch exten .falling = true ↔ exten = 2 ∨ exten = 3 := by
  simp [edgeMatch]

theorem startsConversion_rising_iff (s : State) :
    startsConversion 0 1 s ↔ s.adc.extsel = 7 ∧ pulseAccepted .rising s = true := by
  rw [pulseAccepted_iff, edgeMatch_rising_iff]
  constructor
  · rintro ⟨⟨-, -, hexten⟩ | ⟨h, -⟩, hsource, hclock, hon, hready, harmed, hidle⟩
    · exact ⟨hsource, hclock, hon, hready, harmed, hidle, hexten⟩
    · exact absurd h (by decide)
  · rintro ⟨hsource, hclock, hon, hready, harmed, hidle, hexten⟩
    exact ⟨.inl ⟨rfl, rfl, hexten⟩, hsource, hclock, hon, hready, harmed, hidle⟩

theorem startsConversion_falling_iff (s : State) :
    startsConversion 1 0 s ↔ s.adc.extsel = 7 ∧ pulseAccepted .falling s = true := by
  rw [pulseAccepted_iff, edgeMatch_falling_iff]
  constructor
  · rintro ⟨⟨h, -⟩ | ⟨-, -, hexten⟩, hsource, hclock, hon, hready, harmed, hidle⟩
    · exact absurd h (by decide)
    · exact ⟨hsource, hclock, hon, hready, harmed, hidle, hexten⟩
  · rintro ⟨hsource, hclock, hon, hready, harmed, hidle, hexten⟩
    exact ⟨.inr ⟨rfl, rfl, hexten⟩, hsource, hclock, hon, hready, harmed, hidle⟩

theorem startsConversion_ne {before after : Bit} {s : State} (h : startsConversion before after s) :
    before ≠ after := by
  rcases h with ⟨⟨rfl, rfl, -⟩ | ⟨rfl, rfl, -⟩, -⟩ <;> decide

theorem startsConversion_exten {before after : Bit} {s : State} (h : startsConversion before after s) :
    s.adc.exten ≠ 0 := by
  rcases h with ⟨⟨-, -, h | h⟩ | ⟨-, -, h | h⟩, -⟩ <;> rw [h] <;> decide

/-! ### Replacing the timer's state (R311) -/

theorem putTim_of_rising {t : Tim} {s : State} (hbefore : oc1ref s.tim = 0) (hafter : oc1ref t = 1) :
    putTim t s = triggerPulse .rising { s with tim := t } := by
  rw [putTim, evalEdge, if_pos ⟨hbefore, hafter⟩]

theorem putTim_of_falling {t : Tim} {s : State} (hbefore : oc1ref s.tim = 1) (hafter : oc1ref t = 0) :
    putTim t s = triggerPulse .falling { s with tim := t } := by
  rw [putTim, evalEdge, if_neg (by simp [hbefore]), if_pos ⟨hbefore, hafter⟩]

theorem putTim_of_still {t : Tim} {s : State} (h : oc1ref s.tim = oc1ref t) : putTim t s = { s with tim := t } := by
  rcases putTim_cases t s with hput | ⟨-, hmoved, -⟩
  · exact hput
  · exact absurd h hmoved

theorem putTim_of_starts {t : Tim} {s : State} (h : startsConversion (oc1ref s.tim) (oc1ref t) s) :
    putTim t s = { s with tim := t, adc := startConversion s.adc } := by
  rcases bit_zero_or_one (oc1ref s.tim) with hbefore | hbefore <;>
    rcases bit_zero_or_one (oc1ref t) with hafter | hafter <;> rw [hbefore, hafter] at h
  · exact absurd rfl (startsConversion_ne h)
  · rw [putTim_of_rising hbefore hafter]
    exact triggerPulse_of_accepted ((startsConversion_rising_iff { s with tim := t }).mp h)
  · rw [putTim_of_falling hbefore hafter]
    exact triggerPulse_of_accepted ((startsConversion_falling_iff { s with tim := t }).mp h)
  · exact absurd rfl (startsConversion_ne h)

theorem putTim_of_not_starts {t : Tim} {s : State} (h : ¬startsConversion (oc1ref s.tim) (oc1ref t) s) :
    putTim t s = { s with tim := t } := by
  rcases bit_zero_or_one (oc1ref s.tim) with hbefore | hbefore <;>
    rcases bit_zero_or_one (oc1ref t) with hafter | hafter <;> rw [hbefore, hafter] at h
  · exact putTim_of_still (hbefore.trans hafter.symm)
  · rw [putTim_of_rising hbefore hafter]
    exact triggerPulse_of_dropped (mt (startsConversion_rising_iff { s with tim := t }).mpr h)
  · rw [putTim_of_falling hbefore hafter]
    exact triggerPulse_of_dropped (mt (startsConversion_falling_iff { s with tim := t }).mpr h)
  · exact putTim_of_still (hbefore.trans hafter.symm)

/-- Settles O43. -/
theorem edgeStartsConversion : Obligations.EdgeStartsConversion := by
  unfold Obligations.EdgeStartsConversion
  exact fun s t => ⟨putTim_of_starts, putTim_of_not_starts⟩

/-! ### Writes of the control fields (R341, R349, R362, R376) -/

/-- The start command to a ready converter arms it (R362). -/
theorem writeSwstart_one {s : State} (hon : s.adc.adon = 1) (hready : s.adc.adons = 1) :
    writeSwstart 1 s = { s with adc := { s.adc with armed := 1 } } := by
  have hdefined : startUndefined s.adc = false := by simp [startUndefined, hon, hready]
  rw [writeSwstart, if_neg (by decide), hdefined, if_neg (by decide)]

section
variable {s : State} (hclock : s.clk.adcen = 1)
include hclock

theorem writeField_adcAdon (v : BusWord) :
    writeField .adcAdon v s = { s with adc := writeAdon (v.setWidth 1) s.adc } := by
  rw [writeField_open (gated_adc_of_adcen rfl hclock), writeOpen]

theorem writeField_adcSwstart (v : BusWord) : writeField .adcSwstart v s = writeSwstart (v.setWidth 1) s := by
  rw [writeField_open (gated_adc_of_adcen rfl hclock), writeOpen]

theorem writeField_adcEoc (v : BusWord) :
    writeField .adcEoc v s = if v = 0 then { s with adc := { s.adc with eoc := 0 } } else s := by
  rw [writeField_open (gated_adc_of_adcen rfl hclock), writeOpen]

theorem writeField_adcJeoc (v : BusWord) :
    writeField .adcJeoc v s = if v = 0 then { s with adc := { s.adc with jeoc := 0 } } else s := by
  rw [writeField_open (gated_adc_of_adcen rfl hclock), writeOpen]

theorem writeField_adcSq1 (v : BusWord) :
    writeField .adcSq1 v s = { s with adc := { s.adc with sq1 := v.setWidth 5 } } := by
  rw [writeField_open (gated_adc_of_adcen rfl hclock)]
  rfl

theorem writeField_adcSmpx (v : BusWord) :
    writeField .adcSmpx v s =
      { s with adc := { s.adc with smp := s.adc.smp.set s.adc.sq1.toNat (v.setWidth 3) s.adc.sq1.isLt } } := by
  rw [writeField_open (gated_adc_of_adcen rfl hclock)]
  rfl

end

/-- Settles O50: the write rule at its two values, on the bus and by the two operations that carry them. -/
theorem converterEnableWrite : Obligations.ConverterEnableWrite := by
  unfold Obligations.ConverterEnableWrite
  intro s hclock
  have hone : writeField .adcAdon 1 s = { s with adc := { s.adc with adon := 1 } } := writeField_adcAdon hclock 1
  have hzero : writeField .adcAdon 0 s =
      { s with adc := { s.adc with adon := 0, adons := 0, armed := 0, busy := 0 } } := writeField_adcAdon hclock 0
  refine ⟨hone, hzero, ?_, ?_⟩
  · rw [exec, execSet, writeBit_of_bit (x := .adcAdon) rfl rfl rfl, hone]
  · rw [exec, execClr, writeBit_of_bit (x := .adcAdon) rfl rfl rfl, hzero]

/-- Settles O52: the start command is defined for a ready converter; armed already, it stores what is there. -/
theorem startCommandArms : Obligations.StartCommandArms := by
  unfold Obligations.StartCommandArms
  intro s hclock
  have hset (hon : s.adc.adon = 1) (hready : s.adc.adons = 1) :
      exec (.set 0x21) s = .next { s with pc := s.pc + 1, adc := { s.adc with armed := 1 } } := by
    have harm : writeField .adcSwstart 1 s = writeSwstart 1 s := writeField_adcSwstart hclock 1
    rw [exec, execSet, writeBit_of_bit (x := .adcSwstart) rfl rfl rfl, harm, writeSwstart_one hon hready]
  refine ⟨hset, fun hon hready harmed => ?_, ?_⟩
  · rw [hset hon hready, ← harmed]
  · have hnothing : writeField .adcSwstart 0 s = s := writeField_adcSwstart hclock 0
    rw [exec, execClr, writeBit_of_bit (x := .adcSwstart) rfl rfl rfl, hnothing]

/-- Settles O53: the two flags' write rules at both values, then the operations that carry them. -/
theorem completionFlagWrites : Obligations.CompletionFlagWrites := by
  unfold Obligations.CompletionFlagWrites
  intro s hclock
  have heoc0 := writeField_adcEoc hclock 0
  have heoc1 := writeField_adcEoc hclock 1
  have hjeoc0 := writeField_adcJeoc hclock 0
  have hjeoc1 := writeField_adcJeoc hclock 1
  rw [if_pos rfl] at heoc0 hjeoc0
  rw [if_neg (by decide)] at heoc1 hjeoc1
  have heoc (v : BusWord) := writeBit_of_bit (f := 0x22) (x := .adcEoc) rfl rfl rfl v s
  have hjeoc (v : BusWord) := writeBit_of_bit (f := 0x23) (x := .adcJeoc) rfl rfl rfl v s
  refine ⟨heoc0, heoc1, hjeoc0, hjeoc1, ?_, ?_, ?_, ?_⟩
  · rw [exec, execClr, heoc, heoc0]
  · rw [exec, execClr, hjeoc, hjeoc0]
  · rw [exec, execSet, heoc, heoc1]
  · rw [exec, execSet, hjeoc, hjeoc1]

/-! ### The converter's own steps (R360, R372, R373, R378) -/

theorem adcReadyEnabled_iff (s : State) :
    adcReadyEnabled s = true ↔ s.clk.adcen = 1 ∧ s.adc.adon = 1 ∧ s.adc.adons = 0 := by
  simp [adcReadyEnabled, and_assoc]

theorem adcCompleteEnabled_iff (s : State) : adcCompleteEnabled s = true ↔ s.clk.adcen = 1 ∧ s.adc.busy = 1 := by
  simp [adcCompleteEnabled]

theorem envInjectedEnabled_iff (s : State) :
    envInjectedEnabled s = true ↔ s.clk.adcen = 1 ∧ s.adc.adon = 1 ∧ s.adc.adons = 1 := by
  simp [envInjectedEnabled, and_assoc]

theorem adcReady_of_enabling {s : State} (h : s.clk.adcen = 1 ∧ s.adc.adon = 1 ∧ s.adc.adons = 0) :
    adcReady s = { s with adc := { s.adc with adons := 1 } } := by
  rw [adcReady, if_pos ((adcReadyEnabled_iff s).mpr h)]

theorem adcReady_of_not_enabling {s : State} (h : ¬(s.clk.adcen = 1 ∧ s.adc.adon = 1 ∧ s.adc.adons = 0)) :
    adcReady s = s := by
  rw [adcReady, if_neg (mt (adcReadyEnabled_iff s).mp h)]

theorem adcComplete_of_single {s : State} (h : s.clk.adcen = 1 ∧ s.adc.busy = 1) (hmode : s.adc.cont = 0) (v : Sample) :
    adcComplete v s = { s with adc := { s.adc with dr := v.setWidth 16, eoc := 1, busy := 0, armed := 0 } } := by
  rw [adcComplete, if_pos ((adcCompleteEnabled_iff s).mpr h), completeConversion, if_pos hmode]

theorem adcComplete_of_continuous {s : State} (h : s.clk.adcen = 1 ∧ s.adc.busy = 1) (hmode : s.adc.cont = 1)
    (v : Sample) : adcComplete v s = { s with adc := { s.adc with dr := v.setWidth 16, eoc := 1, busy := 0 } } := by
  rw [adcComplete, if_pos ((adcCompleteEnabled_iff s).mpr h), completeConversion, if_neg (by rw [hmode]; decide)]

theorem adcComplete_of_not_busy {s : State} (h : ¬(s.clk.adcen = 1 ∧ s.adc.busy = 1)) (v : Sample) :
    adcComplete v s = s := by
  rw [adcComplete, if_neg (mt (adcCompleteEnabled_iff s).mp h)]

theorem envInjected_of_ready {s : State} (h : s.clk.adcen = 1 ∧ s.adc.adon = 1 ∧ s.adc.adons = 1) (a b c d : Sample) :
    envInjected a b c d s = { s with adc := { s.adc with
      jdr1 := a.setWidth 16, jdr2 := b.setWidth 16, jdr3 := c.setWidth 16, jdr4 := d.setWidth 16, jeoc := 1 } } := by
  rw [envInjected, if_pos ((envInjectedEnabled_iff s).mpr h)]

theorem envInjected_of_not_ready {s : State} (h : ¬(s.clk.adcen = 1 ∧ s.adc.adon = 1 ∧ s.adc.adons = 1))
    (a b c d : Sample) : envInjected a b c d s = s := by
  rw [envInjected, if_neg (mt (envInjectedEnabled_iff s).mp h)]

/-- Settles O48: the step is enabled while busy and clocked, and the mode decides whether it disarms. -/
theorem completionDeliversResult : Obligations.CompletionDeliversResult := by
  unfold Obligations.CompletionDeliversResult
  intro s rest v hagenda
  rw [step_of_agent hagenda]
  refine ⟨fun hclock hbusy hmode => ?_, fun hclock hbusy hmode => ?_, fun h => ?_⟩ <;>
    refine congrArg Host.Outcome.next ?_
  · exact adcComplete_of_single (s := { s with agenda := rest }) ⟨hclock, hbusy⟩ hmode v
  · exact adcComplete_of_continuous (s := { s with agenda := rest }) ⟨hclock, hbusy⟩ hmode v
  · exact adcComplete_of_not_busy (s := { s with agenda := rest }) h v

/-- Settles O49. -/
theorem injectedResultsArrive : Obligations.InjectedResultsArrive := by
  unfold Obligations.InjectedResultsArrive
  intro s rest a b c d hagenda
  rw [step_of_agent hagenda]
  refine ⟨fun hclock hon hready => ?_, fun h => ?_⟩ <;> refine congrArg Host.Outcome.next ?_
  · exact envInjected_of_ready (s := { s with agenda := rest }) ⟨hclock, hon, hready⟩ a b c d
  · exact envInjected_of_not_ready (s := { s with agenda := rest }) h a b c d

end Sys2Proof.Machine

/-! All that a step outside the `undefined` points can do to the converter (R466; log 10, 11, 12): one move, with the
condition under which it is made, after the side effect that the operation's read may have. -/

namespace Sys2Proof.Machine

/-! ### What the next step writes, and where the commands are defined -/

/-- A bit field's legal values are 0 and 1 (R108). -/
theorem Field.bit_of_legal {x : Field} {v : BusWord} (hwidth : x.width = 1) (hlegal : x.legal v = true) :
    v = 0 ∨ v = 1 := by
  have hfits := ((Field.legal_iff x v).mp hlegal).1
  rw [hwidth] at hfits
  bv_omega

/-- What the next step writes is a legal value (R185). -/
theorem legal_of_writesNow {s : State} {x : Field} {v : BusWord} (h : writesNow s = some (x, v)) :
    x.legal v = true := by
  obtain ⟨i, -, hwrites⟩ := Option.bind_eq_some_iff.mp h
  exact (writes_spec hwrites).2

theorem undefinedWrite_of_writesNow {s : State} {x : Field} {v : BusWord} (hdef : reachesUndefined s = false)
    (hwrite : writesNow s = some (x, v)) : undefinedWrite x v s = false := by
  simpa [reachesUndefined, hwrite] using hdef

theorem adcen_of_open {x : Field} {s : State} (hx : x.group = .adc) (hopen : gated x s = false) : s.clk.adcen = 1 :=
  bit_ne_zero (by simpa [gated_adc hx] using hopen)

@[simp] theorem interruptEntry_adc (s : State) : (interruptEntry s).adc = s.adc := by
  unfold interruptEntry
  split <;> rfl

/-- Where `TIM.UG` is defined, both preload enables are set (R298). -/
theorem preloads_of_defined {t : Tim} (h : updateUndefined t = false) : t.oc1pe = 1 ∧ t.arpe = 1 := by
  simp only [updateUndefined, Bool.or_eq_false_iff, decide_eq_false_iff_not] at h
  obtain ⟨hoc1pe, harpe⟩ := h
  exact ⟨bit_ne_zero hoc1pe, bit_ne_zero harpe⟩

theorem startUndefined_eq_false_iff (a : Adc) : startUndefined a = false ↔ a.adon = 1 ∧ a.adons = 1 := by
  simp [startUndefined]

/-! ### The moves -/

/-- What one update makes of the converter's state `a`, in a step from `s` that leaves the timer at `tim`: each way to
the new state `b` with the condition under which it is taken. -/
inductive ConverterMove (s : State) (tim : Tim) (a b : Adc) : Prop
  /-- nothing, or a write of a field that configures the conversions but for the channel ordinal -/
  | configured (hadc : b = { a with
      bank := b.bank, cont := b.cont, extsel := b.extsel, exten := b.exten, seqLen := b.seqLen, smp := b.smp,
      irqen := b.irqen })
  /-- a write of the channel ordinal (R65) -/
  | channelWritten (v : BusWord) (c : BitVec 5) (hwrite : writesNow s = some (.adcSq1, v))
      (hadc : b = { a with sq1 := c })
  /-- an accepted edge of the timer's output (R365) -/
  | started (hstarts : startsConversion (oc1ref s.tim) (oc1ref tim) s)
      (hadc : b = { a with busy := 1, convCh := a.sq1, convBank := a.bank })
  /-- an ungated write of 1 to `ADC.ADON` (R341) -/
  | enabled (hadc : b = { a with adon := 1 })
  /-- an ungated write of 0 to `ADC.ADON` (R341) -/
  | disabled (hwrite : writesNow s = some (.adcAdon, 0)) (hclock : s.clk.adcen = 1)
      (hadc : b = { a with adon := 0, adons := 0, armed := 0, busy := 0 })
  /-- a gated write of `ADC.ADON` (R113) -/
  | enableDrawn (v : BusWord) (on : Bit) (hwrite : writesNow s = some (.adcAdon, v)) (hgated : gated .adcAdon s = true)
      (hadc : b = { a with adon := on })
  /-- the start command to a ready converter (R362) -/
  | armed (hready : s.adc.adons = 1) (hadc : b = { a with armed := 1 })
  /-- a write to `ADC.EOC` that clears it, or a gated one (R113, R376) -/
  | regularFlagWritten (v : BusWord) (flag : Bit) (hwrite : writesNow s = some (.adcEoc, v))
      (hzero : v = 0 ∨ s.clk.adcen = 0) (hadc : b = { a with eoc := flag })
  /-- a write to `ADC.JEOC` that clears it, or a gated one (R113, R376) -/
  | injectedFlagWritten (v : BusWord) (flag : Bit) (hwrite : writesNow s = some (.adcJeoc, v))
      (hzero : v = 0 ∨ s.clk.adcen = 0) (hadc : b = { a with jeoc := flag })
  /-- `AdcReady` (R360) -/
  | ready (hhead : s.agenda.head? = some .adcReady) (hon : s.adc.adon = 1) (hadc : b = { a with adons := 1 })
  /-- `AdcComplete` (R372, R373) -/
  | completed (v : Sample) (hadc : b = { a with
      dr := v.setWidth 16, eoc := 1, busy := 0, armed := if a.cont = 0 then 0 else a.armed })
  /-- `EnvInjected` (R378) -/
  | injected (j1 j2 j3 j4 : BitVec 16)
      (hadc : b = { a with jdr1 := j1, jdr2 := j2, jdr3 := j3, jdr4 := j4, jeoc := 1 })
  /-- reset (R93) -/
  | reset (hreset : resetTurn s = true) (hadc : b = State.reset.adc)

/-- What `ADC.EOC` is once the operation's read has had its side effect: as before, unless the read is an ungated one of
`ADC.DR` (R111). -/
def EocAfterRead (s : State) (e : Bit) : Prop :=
  e = s.adc.eoc ∨ ((executes s).bind readSource = some .adcDr ∧ s.clk.adcen = 1)

/-- The state `r` in which an operation, after its read, performs its write: in the step's state `s`, all that a write
rule looks at but `ADC.EOC` is the same. -/
structure AfterRead (s r : State) (e : Bit) : Prop where
  eoc : EocAfterRead s e
  clk : r.clk = s.clk
  tim : r.tim = s.tim
  adc : r.adc = { s.adc with eoc := e }

/-! ### Field writes -/

section
variable {s r : State} {e : Bit} (h : AfterRead s r e)
include h

theorem AfterRead.startsConversion_iff (before after : Bit) :
    startsConversion before after r ↔ startsConversion before after s := by
  simp only [startsConversion, h.clk, h.adc]

theorem AfterRead.gated_eq (x : Field) : gated x r = gated x s := by
  simp only [gated, h.clk]

theorem AfterRead.undefinedWrite_eq (x : Field) (v : BusWord) : undefinedWrite x v r = undefinedWrite x v s := by
  simp only [undefinedWrite, h.gated_eq, h.clk, h.tim, h.adc, startUndefined]

/-- Replacing the timer's state starts a conversion, or leaves the converter alone (R311, R365). -/
theorem putTim_move (t : Tim) : ConverterMove s t r.adc (putTim t r).adc := by
  by_cases hstarts : startsConversion (oc1ref r.tim) (oc1ref t) r
  · rw [putTim_of_starts hstarts]
    rw [h.startsConversion_iff, h.tim] at hstarts
    exact .started hstarts rfl
  · rw [putTim_of_not_starts hstarts]
    exact .configured rfl

variable {x : Field} {v : BusWord} (hwrite : writesNow s = some (x, v))
include hwrite

/-- A store of any content `w`, of a field whose write has no rule among the converter's own. -/
theorem storeField_move (w : BusWord) (hon : x ≠ .adcAdon) (heoc : x ≠ .adcEoc) (hjeoc : x ≠ .adcJeoc) :
    ConverterMove s (storeField x w r).tim r.adc (storeField x w r).adc := by
  cases x
  case adcAdon | adcEoc | adcJeoc => contradiction
  case adcSq1 => exact .channelWritten v _ hwrite rfl
  case timOc1m => rw [storeField, putTim_tim]; exact putTim_move h _
  all_goals exact .configured rfl

theorem writeGated_move (hgated : gated x s = true) :
    ConverterMove s (writeGated x r).tim r.adc (writeGated x r).adc := by
  have hclock (hx : x.group = .adc) : s.clk.adcen = 0 := by simpa [gated_adc hx] using hgated
  have hstore := storeField_move h hwrite (anyLegal x r.draws)
  unfold writeGated
  split
  · exact .configured rfl
  · cases x
    case adcAdon => exact .enableDrawn v _ hwrite hgated rfl
    case adcEoc => exact .regularFlagWritten v _ hwrite (.inr (hclock rfl)) rfl
    case adcJeoc => exact .injectedFlagWritten v _ hwrite (.inr (hclock rfl)) rfl
    all_goals exact hstore (by decide) (by decide) (by decide)

/-- Each field whose write rule reaches the converter, or moves the timer's output, by the bit written; every other
write is a store, or stays outside the converter. -/
theorem writeOpen_move (hopen : gated x s = false) (hdef : undefinedWrite x v s = false) :
    ConverterMove s (writeOpen x v r).tim r.adc (writeOpen x v r).adc := by
  have hlegal : x.legal v = true := legal_of_writesNow hwrite
  have hstore := storeField_move h hwrite v
  rw [← h.undefinedWrite_eq] at hdef
  rw [← h.gated_eq] at hopen
  cases x
  case clkTimen => rw [writeOpen, writeTimen_defined hdef]; exact .configured rfl
  case clkAdcen => rw [writeOpen, writeAdcen_defined hdef]; exact .configured rfl
  case timCcr1 => rw [writeOpen, putTim_tim]; exact putTim_move h _
  case timUg =>
    rcases Field.bit_of_legal rfl hlegal with rfl | rfl
    · exact .configured rfl
    · have hdefined : updateUndefined r.tim = false := by simpa [undefinedWrite, hopen] using hdef
      obtain ⟨hoc1pe, harpe⟩ := preloads_of_defined hdefined
      have hug : writeOpen .timUg 1 r = putTim (updateEvent r.tim) r := writeUg_one hoc1pe harpe
      rw [hug, putTim_tim]
      exact putTim_move h _
  case adcAdon =>
    rcases Field.bit_of_legal rfl hlegal with rfl | rfl
    · have hclock : s.clk.adcen = 1 := by rw [← h.clk]; exact adcen_of_open rfl hopen
      exact .disabled hwrite hclock rfl
    · exact .enabled rfl
  case adcSwstart =>
    rcases Field.bit_of_legal rfl hlegal with rfl | rfl
    · exact .configured rfl
    · have hdefined : startUndefined r.adc = false := by simpa [undefinedWrite, hopen] using hdef
      obtain ⟨hon, hready⟩ := (startUndefined_eq_false_iff _).mp hdefined
      have harm : writeOpen .adcSwstart 1 r = { r with adc := { r.adc with armed := 1 } } := writeSwstart_one hon hready
      rw [h.adc] at hready
      rw [harm]
      exact .armed hready rfl
  case adcEoc =>
    rcases Field.bit_of_legal rfl hlegal with rfl | rfl
    · exact .regularFlagWritten 0 0 hwrite (.inl rfl) rfl
    · exact .configured rfl
  case adcJeoc =>
    rcases Field.bit_of_legal rfl hlegal with rfl | rfl
    · exact .injectedFlagWritten 0 0 hwrite (.inl rfl) rfl
    · exact .configured rfl
  case clkHsion | timArr => exact .configured rfl
  all_goals exact hstore (by decide) (by decide) (by decide)

theorem writeField_move (hdef : undefinedWrite x v s = false) :
    ConverterMove s (writeField x v r).tim r.adc (writeField x v r).adc := by
  cases hgated : gated x s with
  | true => rw [writeField_gated ((h.gated_eq x).trans hgated)]; exact writeGated_move h hwrite hgated
  | false => rw [writeField_open ((h.gated_eq x).trans hgated)]; exact writeOpen_move h hwrite hgated hdef

end

/-! ### The sequencer, the other agents, and the step -/

/-- The read that an operation makes before its write, with the draw it may count. -/
theorem readSource_afterRead {s : State} {i : Instr} (hi : executes s = some i) (n : Nat) (agenda : List AgentStep) :
    ∃ e, AfterRead s ((readSource i).elim id readEffect (countDraws n { s with agenda := agenda })) e := by
  cases hread : readSource i with
  | none => exact ⟨s.adc.eoc, .inl rfl, rfl, rfl, rfl⟩
  | some x =>
    rcases readEffect_cases x (countDraws n { s with agenda := agenda }) with heffect | ⟨rfl, hclock, heffect⟩
    · refine ⟨s.adc.eoc, .inl rfl, ?_, ?_, ?_⟩ <;> rw [Option.elim_some, heffect] <;> rfl
    · refine ⟨0, .inr ⟨by rw [hi]; exact hread, hclock⟩, ?_, ?_, ?_⟩ <;> rw [Option.elim_some, heffect] <;> rfl

theorem AfterRead.refl (s : State) (agenda : List AgentStep) :
    AfterRead s { s with agenda := agenda } s.adc.eoc :=
  ⟨.inl rfl, rfl, rfl, rfl⟩

/-- An operation makes its read, then its write; it moves the converter in no other way. -/
theorem exec_converter_cases {s t : State} {i : Instr} (hi : executes s = some i) (hdef : reachesUndefined s = false)
    (hexec : exec i { s with agenda := s.agenda.tail } = .next t) :
    ∃ e, EocAfterRead s e ∧ ConverterMove s t.tim { s.adc with eoc := e } t.adc := by
  have hkept {u : State} (h : u.adc = s.adc) :
      ∃ e, EocAfterRead s e ∧ ConverterMove s u.tim { s.adc with eoc := e } u.adc :=
    ⟨s.adc.eoc, .inl rfl, .configured (by rw [h])⟩
  have hread {x : Field} (n : Nat) (hx : readSource i = some x) :
      let r := readEffect x (countDraws n { s with agenda := s.agenda.tail })
      ∃ e, EocAfterRead s e ∧ ConverterMove s r.tim { s.adc with eoc := e } r.adc := by
    obtain ⟨e, hr⟩ := readSource_afterRead hi n s.agenda.tail
    rw [hx] at hr
    exact ⟨e, hr.eoc, by rw [← hr.adc]; exact .configured rfl⟩
  rcases exec_cases hexec with ⟨c, n, rfl⟩ | ⟨x, v, n, hwrites, rfl⟩ | ⟨f, x, v, n, rfl, hx, rfl⟩ |
    ⟨f, k, x, n, rfl, hx, rfl | rfl⟩ | ⟨-, rfl⟩ | ⟨-, rfl⟩ | ⟨a, -, rfl⟩ | ⟨-, -, rfl⟩ | ⟨-, -, rfl⟩
  · exact hkept rfl
  · obtain ⟨e, hr⟩ := readSource_afterRead hi n s.agenda.tail
    have hwrite : writesNow s = some (x, v) := by
      rw [writes_agenda] at hwrites
      simpa [writesNow, hi] using hwrites
    exact ⟨e, hr.eoc, by rw [← hr.adc]; exact writeField_move hr hwrite (undefinedWrite_of_writesNow hdef hwrite)⟩
  · exact hread n hx
  · exact hread n hx
  · exact hread n hx
  · exact hkept rfl
  · exact hkept rfl
  · exact hkept rfl
  · exact hkept rfl
  · exact hkept rfl

theorem agentStep_converter_cases {s t : State} {e : AgentStep} (hhead : s.agenda.head? = some e) (hne : e ≠ .seq)
    (hagent : agentStep e { s with agenda := s.agenda.tail } = .next t) : ConverterMove s t.tim s.adc t.adc := by
  cases e with
  | seq => exact absurd rfl hne
  | envSysclkInternal => cases hagent; exact .configured (by rw [envSysclkInternal_eq])
  | envOscReady => cases hagent; unfold envOscReady; split <;> exact .configured rfl
  | envTick => cases hagent; exact .configured rfl
  | envInjected a b c d =>
    cases hagent
    unfold envInjected
    split
    · exact .injected _ _ _ _ rfl
    · exact .configured rfl
  | appRead c => cases hagent; exact .configured rfl
  | appWrite c v => cases hagent; cases c <;> exact .configured rfl
  | timerTick =>
    cases hagent
    unfold timerTick
    split
    · rw [putTim_tim]
      exact putTim_move (.refl s s.agenda.tail) (tickTim s.tim)
    · exact .configured rfl
  | adcReady =>
    cases hagent
    unfold adcReady
    split
    · rename_i henabled
      obtain ⟨-, hon, -⟩ := (adcReadyEnabled_iff _).mp henabled
      exact .ready hhead hon rfl
    · exact .configured rfl
  | adcComplete v =>
    cases hagent
    unfold adcComplete
    split
    · exact .completed v rfl
    · exact .configured rfl
  | rst src osc => cases hagent; exact .reset (resetTurn_of_head hhead) rfl

/-- All that a step outside the `undefined` points can do to the converter: the side effect of the operation's read on
`ADC.EOC`, then one move. -/
theorem step_converter_cases {s t : State} (h : step s = .next t) (hdef : reachesUndefined s = false) :
    ∃ e, EocAfterRead s e ∧ ConverterMove s t.tim { s.adc with eoc := e } t.adc := by
  rcases step_cases h with ⟨-, rfl⟩ | ⟨i, hi, hexec⟩ | ⟨-, -, -, -, rfl⟩ | ⟨-, -, rfl⟩ | ⟨e, hhead, hne, hagent⟩
  · exact ⟨s.adc.eoc, .inl rfl, .configured (by rw [interruptEntry_adc])⟩
  · exact exec_converter_cases hi hdef hexec
  · exact ⟨s.adc.eoc, .inl rfl, .configured rfl⟩
  · exact ⟨s.adc.eoc, .inl rfl, .configured rfl⟩
  · exact ⟨s.adc.eoc, .inl rfl, agentStep_converter_cases hhead hne hagent⟩

end Sys2Proof.Machine

/-! What the moves of the converter come to (R342, R349, R360, R361, R367, R375, R379, R553): its five states are kept,
and the ready bit, the completion flags, the busy bit and the channel ordinal change only as the rules state. -/

namespace Sys2Proof.Machine

/-! ### The order of R531 -/

theorem keepsOrder_spec {s : State} (h : keepsOrder s = true) : reachesUndefined s = false ∧ writesGated s = false := by
  simp only [keepsOrder, accessesGated, Bool.and_eq_true, Bool.not_eq_true', Bool.or_eq_false_iff] at h
  obtain ⟨⟨hdef, -, hungated⟩, -⟩ := h
  exact ⟨hdef, hungated⟩

theorem gated_of_writesNow {s : State} {x : Field} {v : BusWord} (hwrite : writesNow s = some (x, v))
    (hungated : writesGated s = false) : gated x s = false := by
  simpa [writesGated, hwrite] using hungated

/-! ### The five states (R342) -/

theorem ConverterLegal.of_adc_eq {t : State} {a : Adc} (hadc : t.adc = a) (hready : a.adons = 1 → a.adon = 1)
    (harmed : a.armed = 1 → a.adons = 1) (hbusy : a.busy = 1 → a.armed = 1) : ConverterLegal t := by
  subst hadc
  exact ⟨hready, harmed, hbusy⟩

/-- No move leaves the five states but a gated write of `ADC.ADON` (log 17): each either keeps the four bits, or sets
one of them where its condition says that the one below it is set, or drops all above one. -/
theorem ConverterMove.converterLegal {s t : State} {e : Bit} (h : ConverterLegal s) (hungated : writesGated s = false)
    (hmove : ConverterMove s t.tim { s.adc with eoc := e } t.adc) : ConverterLegal t := by
  have zeroNe {p : Prop} (h0 : (0 : Bit) = 1) : p := absurd h0 zeroBit_ne_one
  cases hmove with
  | configured hadc | channelWritten _ _ _ hadc | regularFlagWritten _ _ _ _ hadc | injectedFlagWritten _ _ _ _ hadc
  | injected _ _ _ _ hadc => exact .of_adc_eq hadc h.ready h.armed h.busy
  | started hstarts hadc =>
    obtain ⟨-, -, -, -, -, harmed, -⟩ := hstarts
    exact .of_adc_eq hadc h.ready h.armed fun _ => harmed
  | enabled hadc => exact .of_adc_eq hadc (fun _ => rfl) h.armed h.busy
  | disabled _ _ hadc => exact .of_adc_eq hadc zeroNe zeroNe zeroNe
  | enableDrawn v _ hwrite hgated => exact absurd hgated (Bool.eq_false_iff.mp (gated_of_writesNow hwrite hungated))
  | armed hready hadc => exact .of_adc_eq hadc h.ready (fun _ => hready) fun _ => rfl
  | ready _ hon hadc => exact .of_adc_eq hadc (fun _ => hon) (fun _ => rfl) h.busy
  | completed v hadc =>
    refine .of_adc_eq hadc h.ready (fun harmed => ?_) zeroNe
    split at harmed
    · exact zeroNe harmed
    · exact h.armed harmed
  | reset _ hadc => exact .of_adc_eq hadc zeroNe zeroNe zeroNe

/-- Settles O17, by the moves a step can make; a step that keeps the order writes no gated field and reaches no
`undefined` point. -/
theorem converterStatesKept : Obligations.ConverterStatesKept := by
  unfold Obligations.ConverterStatesKept
  have hkept (s t : State) (h : ConverterLegal s) (hungated : writesGated s = false) (hdef : reachesUndefined s = false)
      (hstep : step s = .next t) : ConverterLegal t := by
    obtain ⟨e, -, hmove⟩ := step_converter_cases hstep hdef
    exact hmove.converterLegal h hungated
  refine ⟨hkept, fun s t h horder hstep => ?_⟩
  obtain ⟨hdef, hungated⟩ := keepsOrder_spec horder
  exact hkept s t h hungated hdef hstep

/-! ### The ready bit (R360, R361) -/

/-- A step outside the `undefined` points leaves the ready bit alone, or it is `AdcReady`, an ungated write of 0 to
`ADC.ADON`, or reset. -/
theorem step_adons_cases {s t : State} (hstep : step s = .next t) (hdef : reachesUndefined s = false) :
    t.adc.adons = s.adc.adons ∨
    s.agenda.head? = some .adcReady ∧ t.adc.adons = 1 ∨
    (writesNow s = some (.adcAdon, 0) ∧ s.clk.adcen = 1 ∧ t.adc.adon = 0) ∧ t.adc.adons = 0 ∨
    resetTurn s = true ∧ t.adc.adons = 0 := by
  obtain ⟨e, -, hmove⟩ := step_converter_cases hstep hdef
  cases hmove with
  | configured hadc | channelWritten _ _ _ hadc | started _ hadc | enabled hadc | enableDrawn _ _ _ _ hadc
  | armed _ hadc | regularFlagWritten _ _ _ _ hadc | injectedFlagWritten _ _ _ _ hadc | completed _ hadc
  | injected _ _ _ _ hadc => exact .inl (by rw [hadc])
  | ready hhead _ hadc => exact .inr (.inl ⟨hhead, by rw [hadc]⟩)
  | disabled hwrite hclock hadc =>
    exact .inr (.inr (.inl ⟨⟨hwrite, hclock, by rw [hadc]⟩, by rw [hadc]⟩))
  | reset hreset hadc => exact .inr (.inr (.inr ⟨hreset, by rw [hadc]; rfl⟩))

theorem step_adons_rises {s t : State} (hstep : step s = .next t) (hdef : reachesUndefined s = false)
    (h0 : s.adc.adons = 0) (h1 : t.adc.adons = 1) : s.agenda.head? = some .adcReady := by
  have hrise : t.adc.adons ≠ 0 := by rw [h1]; decide
  rcases step_adons_cases hstep hdef with hkept | ⟨hhead, -⟩ | ⟨-, hdropped⟩ | ⟨-, hdropped⟩
  · exact absurd (hkept.trans h0) hrise
  · exact hhead
  · exact absurd hdropped hrise
  · exact absurd hdropped hrise

theorem step_adons_falls {s t : State} (hstep : step s = .next t) (hdef : reachesUndefined s = false)
    (hreset : resetTurn s = false) (h1 : s.adc.adons = 1) (h0 : t.adc.adons = 0) :
    writesNow s = some (.adcAdon, 0) ∧ s.clk.adcen = 1 ∧ t.adc.adon = 0 := by
  have hfall : t.adc.adons ≠ 1 := by rw [h0]; decide
  rcases step_adons_cases hstep hdef with hkept | ⟨-, hraised⟩ | ⟨hwrite, -⟩ | ⟨hreset', -⟩
  · exact absurd (hkept.trans h1) hfall
  · exact absurd hraised hfall
  · exact hwrite
  · exact absurd hreset' (Bool.eq_false_iff.mp hreset)

/-- Settles O47: the step of R360, the two ways the bit moves, and the clearing of the gate, which only stores. -/
theorem readyOnlyByConverter : Obligations.ReadyOnlyByConverter := by
  unfold Obligations.ReadyOnlyByConverter
  refine ⟨fun s rest hagenda => ?_, fun _ _ => step_adons_rises, fun _ _ => step_adons_falls,
    fun s t hstep hexecutes => ?_⟩
  · rw [step_of_agent hagenda]
    refine ⟨fun hclock hon hnot => ?_, fun h => ?_⟩ <;> refine congrArg Host.Outcome.next ?_
    · exact adcReady_of_enabling (s := { s with agenda := rest }) ⟨hclock, hon, hnot⟩
    · exact adcReady_of_not_enabling (s := { s with agenda := rest }) h
  · have hclear (u : State) : exec (.clr 0x05) u = .next { u with pc := u.pc + 1, clk := { u.clk with adcen := 0 } } :=
      writeBit_adcen (gateUndefined_zero _ _)
    rw [step_of_executes hexecutes, hclear] at hstep
    cases hstep
    exact ⟨rfl, rfl⟩

/-! ### The completion flags (R375, R379) -/

theorem step_eoc_falls {s t : State} (hstep : step s = .next t) (hdef : reachesUndefined s = false)
    (hreset : resetTurn s = false) (h1 : s.adc.eoc = 1) (h0 : t.adc.eoc = 0) :
    t.adc.dr = s.adc.dr ∧
      (((executes s).bind readSource = some .adcDr ∧ s.clk.adcen = 1) ∨
        ∃ v, writesNow s = some (.adcEoc, v) ∧ (v = 0 ∨ s.clk.adcen = 0)) := by
  obtain ⟨e, he, hmove⟩ := step_converter_cases hstep hdef
  have byRead (heoc : t.adc.eoc = e) : (executes s).bind readSource = some .adcDr ∧ s.clk.adcen = 1 := by
    refine he.resolve_left fun hsame => ?_
    rw [heoc, hsame, h1] at h0
    exact absurd h0 (by decide)
  cases hmove with
  | configured hadc | channelWritten _ _ _ hadc | started _ hadc | enabled hadc | disabled _ _ hadc
  | enableDrawn _ _ _ _ hadc | armed _ hadc | injectedFlagWritten _ _ _ _ hadc | ready _ _ hadc
  | injected _ _ _ _ hadc => exact ⟨by rw [hadc], .inl (byRead (by rw [hadc]))⟩
  | regularFlagWritten v _ hwrite hzero hadc => exact ⟨by rw [hadc], .inr ⟨v, hwrite, hzero⟩⟩
  | completed _ hadc => exact absurd (h0.symm.trans (by rw [hadc])) zeroBit_ne_one
  | reset hreset' => exact absurd hreset' (Bool.eq_false_iff.mp hreset)

theorem step_jeoc_falls {s t : State} (hstep : step s = .next t) (hdef : reachesUndefined s = false)
    (hreset : resetTurn s = false) (h1 : s.adc.jeoc = 1) (h0 : t.adc.jeoc = 0) :
    t.adc.jdr1 = s.adc.jdr1 ∧ t.adc.jdr2 = s.adc.jdr2 ∧ t.adc.jdr3 = s.adc.jdr3 ∧ t.adc.jdr4 = s.adc.jdr4 ∧
      ∃ v, writesNow s = some (.adcJeoc, v) ∧ (v = 0 ∨ s.clk.adcen = 0) := by
  have hfall : t.adc.jeoc ≠ s.adc.jeoc := by rw [h0, h1]; decide
  obtain ⟨e, -, hmove⟩ := step_converter_cases hstep hdef
  cases hmove with
  | configured hadc | channelWritten _ _ _ hadc | started _ hadc | enabled hadc | disabled _ _ hadc
  | enableDrawn _ _ _ _ hadc | armed _ hadc | regularFlagWritten _ _ _ _ hadc | ready _ _ hadc
  | completed _ hadc => exact absurd (by rw [hadc]) hfall
  | injectedFlagWritten v _ hwrite hzero hadc =>
    exact ⟨by rw [hadc], by rw [hadc], by rw [hadc], by rw [hadc],
      v, hwrite, hzero⟩
  | injected _ _ _ _ hadc => exact absurd (h0.symm.trans (by rw [hadc])) zeroBit_ne_one
  | reset hreset' => exact absurd hreset' (Bool.eq_false_iff.mp hreset)

/-- Settles O54, flag by flag. -/
theorem completionFlagsFallOnlyAsStated : Obligations.CompletionFlagsFallOnlyAsStated := by
  unfold Obligations.CompletionFlagsFallOnlyAsStated
  exact fun s t hstep hdef hreset => ⟨step_eoc_falls hstep hdef hreset, step_jeoc_falls hstep hdef hreset⟩

/-! ### The start of a conversion (R367) -/

/-- Settles O55: of the moves, an accepted edge alone raises the busy bit. -/
theorem conversionStartsOnlyByTrigger : Obligations.ConversionStartsOnlyByTrigger := by
  unfold Obligations.ConversionStartsOnlyByTrigger
  intro s t hstep hdef h0 h1
  have hrise : t.adc.busy ≠ s.adc.busy := by rw [h0, h1]; decide
  obtain ⟨e, -, hmove⟩ := step_converter_cases hstep hdef
  cases hmove with
  | started hstarts hadc =>
    exact ⟨hstarts, startsConversion_ne hstarts, startsConversion_exten hstarts, by rw [hadc],
      by rw [hadc]⟩
  | configured hadc | channelWritten _ _ _ hadc | enabled hadc | enableDrawn _ _ _ _ hadc | armed _ hadc
  | regularFlagWritten _ _ _ _ hadc | injectedFlagWritten _ _ _ _ hadc | ready _ _ hadc
  | injected _ _ _ _ hadc => exact absurd (by rw [hadc]) hrise
  | disabled _ _ hadc | completed _ hadc => exact absurd (Eq.trans (by rw [hadc]) h1) zeroBit_ne_one
  | reset _ hadc => exact absurd (Eq.trans (by rw [hadc]; rfl) h1) zeroBit_ne_one

/-! ### The channel ordinal and the sample time (R66, R349, R553) -/

theorem writesField_iff (x : Field) (s : State) : writesField x s = true ↔ ∃ v, writesNow s = some (x, v) := by
  unfold writesField
  split
  · rename_i y v hwrite
    simp [hwrite]
  · rename_i hnone
    simp [hnone]

theorem step_sq1_changes {s t : State} (hstep : step s = .next t) (hdef : reachesUndefined s = false)
    (hreset : resetTurn s = false) (hne : t.adc.sq1 ≠ s.adc.sq1) : writesField .adcSq1 s = true := by
  obtain ⟨e, -, hmove⟩ := step_converter_cases hstep hdef
  cases hmove with
  | channelWritten v _ hwrite => exact (writesField_iff _ s).mpr ⟨v, hwrite⟩
  | configured hadc | started _ hadc | enabled hadc | disabled _ _ hadc | enableDrawn _ _ _ _ hadc | armed _ hadc
  | regularFlagWritten _ _ _ _ hadc | injectedFlagWritten _ _ _ _ hadc | ready _ _ hadc | completed _ hadc
  | injected _ _ _ _ hadc => exact absurd (by rw [hadc]) hne
  | reset hreset' => exact absurd hreset' (Bool.eq_false_iff.mp hreset)

/-- An ungated write of the channel ordinal stores it (R65). -/
theorem step_sq1_of_write {s t : State} {v : BusWord} (hstep : step s = .next t)
    (hwrite : writesNow s = some (.adcSq1, v)) (hopen : gated .adcSq1 s = false) : t.adc.sq1 = v.setWidth 5 := by
  obtain ⟨i, hi, hwrites⟩ := Option.bind_eq_some_iff.mp hwrite
  rw [← writes_agenda i s.agenda.tail] at hwrites
  obtain ⟨n, hexec⟩ := exec_of_writes hwrites
  have hclock : s.clk.adcen = 1 := adcen_of_open rfl hopen
  rw [step_of_executes hi, hexec, writeField_adcSq1 (by rw [readSource_clk]; exact hclock)] at hstep
  cases hstep
  rfl

/-- The run's last step is a step from the state before it. -/
theorem after_succ {n : Nat} {s t : State} (h : after (n + 1) s = some t) :
    ∃ u, after n s = some u ∧ step u = .next t := by
  induction n generalizing s with
  | zero =>
    cases hstep : step s <;> simp [after, hstep] at h
    exact ⟨s, rfl, by rw [hstep, h]⟩
  | succ n ih =>
    cases hstep : step s <;> rw [after, hstep] at h
    case next u =>
      obtain ⟨w, hw, hlast⟩ := ih h
      exact ⟨w, by rw [after, hstep]; exact hw, hlast⟩
    all_goals cases h

/-- The channel ordinal that `t` holds, `n` steps into the run from `s`, is one that the program wrote in the run. -/
def HoldsWrittenChannel (s : State) (n : Nat) (t : State) : Prop :=
  ∃ m u v, m < n ∧ after m s = some u ∧ writesNow u = some (.adcSq1, v) ∧ t.adc.sq1 = v.setWidth 5

/-- From a write of the channel ordinal on, in a run without reset that keeps the order, each state holds a written
ordinal: a step writes another one, or leaves it as it was. -/
theorem holdsWrittenChannel_of_write {s u₀ : State} {m : Nat} (hm : after m s = some u₀)
    (hwrites : writesField .adcSq1 u₀ = true) {n : Nat}
    (horder : ∀ k u, k < n → after k s = some u → keepsOrder u = true)
    (hreset : ∀ k u, m ≤ k → k < n → after k s = some u → resetTurn u = false) (hmn : m < n) {t : State}
    (ht : after n s = some t) : HoldsWrittenChannel s n t := by
  induction n generalizing t with
  | zero => exact absurd hmn (Nat.not_lt_zero m)
  | succ n ih =>
    obtain ⟨u, hu, hstep⟩ := after_succ ht
    obtain ⟨hdef, hungated⟩ := keepsOrder_spec (horder n u n.lt_succ_self hu)
    by_cases hwritten : writesField .adcSq1 u = true
    · obtain ⟨v, hv⟩ := (writesField_iff _ u).mp hwritten
      exact ⟨n, u, v, n.lt_succ_self, hu, hv, step_sq1_of_write hstep hv (gated_of_writesNow hv hungated)⟩
    · have hne : m ≠ n := by
        rintro rfl
        rw [hm, Option.some.injEq] at hu
        exact hwritten (hu ▸ hwrites)
      have hlt : m < n := lt_of_le_of_ne (Nat.lt_succ_iff.mp hmn) hne
      obtain ⟨k, w, v, hk, hw, hv, hsq1⟩ := ih (fun k w hk => horder k w (Nat.lt_succ_of_lt hk))
        (fun k w hmk hk => hreset k w hmk (Nat.lt_succ_of_lt hk)) hlt hu
      have hkept : t.adc.sq1 = u.adc.sq1 := by
        by_contra hchanged
        exact hwritten (step_sq1_changes hstep hdef (hreset n u hlt.le n.lt_succ_self hu) hchanged)
      exact ⟨k, w, v, Nat.lt_succ_of_lt hk, hw, hv, hkept.trans hsq1⟩

/-- A write of `ADC.SMPX` reaches the cell of the selected channel and no other (R349). -/
theorem writeField_adcSmpx_smp {s : State} (hclock : s.clk.adcen = 1) (v : BusWord) (j : Fin 32) :
    (writeField .adcSmpx v s).adc.smp[j] = if j.val = s.adc.sq1.toNat then v.setWidth 3 else s.adc.smp[j] := by
  rw [writeField_adcSmpx hclock]
  simp only [Fin.getElem_fin, Vector.getElem_set, eq_comm]

theorem value_writeField_adcSmpx {s : State} (hclock : s.clk.adcen = 1) {v : BusWord} (hv : v.toNat < 8) :
    value .adcSmpx (writeField .adcSmpx v s) = v := by
  rw [writeField_open (gated_adc_of_adcen rfl hclock)]
  exact value_storeField s rfl (by decide) ((Field.legal_iff .adcSmpx v).mpr ⟨hv, rfl⟩)

/-- `WRI ADC.SMPX, k` is the write, then the advance. -/
theorem exec_wri_adcSmpx {k : BitVec 6} (hk : k.toNat < 8) (s : State) :
    exec (.wri 0x20 k) s = .next { writeField .adcSmpx (k.setWidth 32) s with pc := s.pc + 1 } := by
  have hlegal : Field.adcSmpx.legal (k.setWidth 32) = true :=
    (Field.legal_iff .adcSmpx _).mpr ⟨by rwa [BitVec.toNat_setWidth_of_le (by decide)], rfl⟩
  have hwritable : Field.adcSmpx.writable = true := rfl
  rw [exec_wri (x := .adcSmpx) rfl, if_pos hwritable, writeChecked_of_legal hlegal]

/-- Settles O51: who changes the ordinal, the run's argument, and the write on the bus and by `WRI`. -/
theorem sampleTimeAlias : Obligations.SampleTimeAlias := by
  unfold Obligations.SampleTimeAlias
  refine ⟨fun _ _ => step_sq1_changes, fun s t n hchannel horder ht hwrites => ?_, fun s v hclock hv => ⟨?_, ?_⟩,
    fun s k hclock hk => ⟨_, exec_wri_adcSmpx hk s, ?_, fun j => ?_, ?_⟩⟩
  · obtain ⟨m, hmn, ⟨u, hu, hwritten⟩, hreset⟩ := hchannel n t ht hwrites
    exact holdsWrittenChannel_of_write hu hwritten horder hreset hmn ht
  · rw [writeField_adcSmpx hclock]
  · exact writeField_adcSmpx_smp hclock v
  · rw [writeField_adcSmpx hclock]
  · have hcell := writeField_adcSmpx_smp hclock (k.setWidth 32) j
    rwa [BitVec.setWidth_setWidth_of_le _ (by decide)] at hcell
  · have hfits : (k.setWidth 32 : BusWord).toNat < 8 := by rwa [BitVec.toNat_setWidth_of_le (by decide)]
    exact value_writeField_adcSmpx hclock hfits

end Sys2Proof.Machine

/-! The interrupt state (R480 to R485): the operation or the entry that the sequencer's turn comes to, the tick's
request, and that interrupts are enabled only in main context. -/

namespace Sys2Proof.Machine

/-! ### The word at `pc`, where no interrupt is to be taken (R480) -/

theorem adcIrq_iff (s : State) : adcIrq s = true ↔ s.adc.irqen = 1 ∧ (s.adc.eoc = 1 ∨ s.adc.jeoc = 1) := by
  simp [adcIrq]

theorem bit_not_one_iff (b : Bit) : ¬b = 1 ↔ b = 0 := by
  revert b
  decide

theorem adcIrq_eq_false_iff (s : State) :
    adcIrq s = false ↔ s.adc.irqen = 0 ∨ (s.adc.eoc = 0 ∧ s.adc.jeoc = 0) := by
  rw [← Bool.not_eq_true, adcIrq_iff, not_and_or, not_or, bit_not_one_iff, bit_not_one_iff, bit_not_one_iff]

/-- The complement of R480's condition, on the stored bits. -/
theorem interruptTakeable_eq_false_iff (s : State) :
    interruptTakeable s = false ↔
      s.sys.ie = 0 ∨ (s.sys.tickp = 0 ∧ (s.adc.irqen = 0 ∨ (s.adc.eoc = 0 ∧ s.adc.jeoc = 0))) := by
  rw [← Bool.not_eq_true, interruptTakeable_iff, not_and_or, not_or, bit_not_one_iff, bit_not_one_iff, Bool.not_eq_true,
    adcIrq_eq_false_iff]

theorem faulted_eq_false_iff (s : State) : faulted s = false ↔ s.sys.fcause = 0 := by
  simp [faulted]

theorem executes_of_decode {s : State} {i : Instr} (hturn : sequencerTurn s = true) (hrunning : faulted s = false)
    (hquiet : interruptTakeable s = false) (hdecode : decode (fetch s) = .op i) : executes s = some i := by
  simp [executes, hturn, hrunning, hquiet, hdecode]

/-- Settles O4: the three ways to name the sequencer's turn come to the same step. -/
theorem stepRunsDecodedOperation : Obligations.StepRunsDecodedOperation := by
  unfold Obligations.StepRunsDecodedOperation
  have hruns (s : State) (i : Instr) (hturn : sequencerTurn s = true) (hrunning : faulted s = false)
      (hquiet : interruptTakeable s = false) (hdecode : decode (fetch s) = .op i) :
      step s = exec i { s with agenda := s.agenda.tail } :=
    step_of_executes (executes_of_decode hturn hrunning hquiet hdecode)
  refine ⟨fun s i hrunning hquiet hdecode => ⟨fun hagenda => ?_, fun rest hagenda => ?_⟩,
    interruptTakeable_eq_false_iff, fun s i hturn hcause hdecode hquiet => ?_⟩
  · rw [hruns s i (by simp [sequencerTurn, hagenda]) hrunning hquiet hdecode, hagenda, List.tail_nil, ← hagenda]
  · rw [hruns s i (by simp [sequencerTurn, hagenda]) hrunning hquiet hdecode, hagenda, List.tail_cons]
  · exact hruns s i hturn ((faulted_eq_false_iff s).mpr hcause) ((interruptTakeable_eq_false_iff s).mpr hquiet) hdecode

/-! ### Interrupt entry (R481) and the tick's request (R474) -/

theorem interruptEntry_of_tick {s : State} (h : s.sys.tickp = 1) :
    interruptEntry s = { s with pc := 0x38, sys := { s.sys with epc := s.pc, ie := 0, inh := 1, tickp := 0 } } := by
  rw [interruptEntry, if_pos h]
  rfl

theorem interruptEntry_of_noTick {s : State} (h : s.sys.tickp = 0) :
    interruptEntry s = { s with pc := 0x20, sys := { s.sys with epc := s.pc, ie := 0, inh := 1 } } := by
  rw [interruptEntry, if_neg ((bit_not_one_iff _).mpr h)]
  rfl

theorem interruptEntry_pc_of_noTick {s : State} (h : s.sys.tickp = 0) : (interruptEntry s).pc = 0x20 := by
  rw [interruptEntry_of_noTick h]

/-- Settles O8: with a request pending the step is the entry, and the tick's bit decides which. -/
theorem interruptEntrySavesAndVectors : Obligations.InterruptEntrySavesAndVectors := by
  unfold Obligations.InterruptEntrySavesAndVectors
  refine fun s hturn hcause henabled => ⟨fun htick => ?_, fun hnone hirqen hflag => ?_⟩
  · rw [step_of_pending hturn hcause henabled (.inl htick)]
    exact congrArg Host.Outcome.next (interruptEntry_of_tick htick)
  · have hirq : adcIrq s = true := (adcIrq_iff s).mpr ⟨hirqen, hflag⟩
    rw [step_of_pending hturn hcause henabled (.inr hirq)]
    exact congrArg Host.Outcome.next (interruptEntry_of_noTick hnone)

/-- An entry is no acknowledgement to the converter, whose line is a level (R471). -/
@[simp] theorem adcIrq_interruptEntry (s : State) : adcIrq (interruptEntry s) = adcIrq s := by
  simp only [adcIrq, interruptEntry_adc]

/-- Settles O9: the tick's entry keeps the converter's line up; an `IRET` enables interrupts and puts back the `pc` that
the next entry saves again. -/
theorem tickBeforeConverter : Obligations.TickBeforeConverter := by
  unfold Obligations.TickBeforeConverter
  refine ⟨fun s hturn hcause henabled htick hirq => ?_, fun s hturn hcause hhandler hnone hirq => ?_⟩
  · exact ⟨_, step_of_pending hturn hcause henabled (.inl htick), interruptEntry_pc_of_tick htick,
      interruptEntry_tickp _, interruptEntry_epc _, (adcIrq_interruptEntry _).trans hirq⟩
  · have hentry := step_of_pending (s := interruptReturn s) hturn hcause rfl (.inr hirq)
    exact ⟨_, _, exec_iret_of_handler hhandler, hentry, interruptEntry_pc_of_noTick hnone, interruptEntry_epc _,
      interruptEntry_inh _⟩

/-- Settles O14: the request is `envTick`, which has no condition; pending already, it stores what is there. -/
theorem tickRequestsCoalesce : Obligations.TickRequestsCoalesce := by
  unfold Obligations.TickRequestsCoalesce
  intro s rest hagenda
  have hrequest : step s = .next { s with agenda := rest, sys := { s.sys with tickp := 1 } } := step_of_agent hagenda
  refine ⟨hrequest, fun hpending => ?_⟩
  rw [hrequest, ← hpending]

/-! ### Interrupts are enabled only in main context (R485) -/

/-- The interrupt enable and the context are as before (R34, R35). -/
structure ContextKept (s t : State) : Prop where
  ie : t.sys.ie = s.sys.ie
  inh : t.sys.inh = s.sys.inh

theorem ContextKept.of_sys_eq {s t : State} (h : t.sys = s.sys) : ContextKept s t :=
  ⟨by rw [h], by rw [h]⟩

theorem ContextKept.contextLegal {s t : State} (hkept : ContextKept s t) (h : ContextLegal s) : ContextLegal t := by
  rwa [ContextLegal, hkept.ie, hkept.inh]

theorem contextLegal_of_main {s : State} (h : s.sys.inh = 0) : ContextLegal s := by
  rintro ⟨-, hhandler⟩
  exact zeroBit_ne_one (h.symm.trans hhandler)

theorem contextLegal_of_disabled {s : State} (h : s.sys.ie = 0) : ContextLegal s := by
  rintro ⟨henabled, -⟩
  exact zeroBit_ne_one (h.symm.trans henabled)

/-- Of the operations, `EI` in main context and `IRET` in handler context alone reach the interrupt state, and
after both the context is main (R242, R243). -/
theorem exec_context_cases {i : Instr} {s t : State} (h : exec i s = .next t) :
    ContextKept s t ∨ (i = .ei ∧ t.sys.inh = 0) ∨ (i = .iret ∧ s.sys.inh ≠ 0 ∧ t.sys.inh = 0) := by
  rcases exec_cases h with ⟨c, n, rfl⟩ | ⟨x, v, n, -, rfl⟩ | ⟨f, x, v, n, -, -, rfl⟩ | ⟨f, k, x, n, -, -, rfl | rfl⟩ |
    ⟨-, rfl⟩ | ⟨-, rfl⟩ | ⟨a, -, rfl⟩ | ⟨hi, hmain, rfl⟩ | ⟨hi, hhandler, rfl⟩
  · exact .inl ⟨rfl, rfl⟩
  · exact .inl (.of_sys_eq (by simp))
  · exact .inl ⟨by simp, by simp⟩
  · exact .inl (.of_sys_eq (by simp))
  · exact .inl (.of_sys_eq (by simp))
  · exact .inl ⟨rfl, rfl⟩
  · exact .inl ⟨rfl, rfl⟩
  · exact .inl ⟨rfl, rfl⟩
  · exact .inr (.inl ⟨hi, bit_ne_one hmain⟩)
  · exact .inr (.inr ⟨hi, hhandler, rfl⟩)

/-- Of the other agents, reset alone reaches the interrupt state (R521). -/
theorem agentStep_context_cases {e : AgentStep} {s t : State} (he : e ≠ .seq) (h : agentStep e s = .next t) :
    ContextKept s t ∨ (t.sys.ie = 0 ∧ t.sys.inh = 0) := by
  rcases agentStep_sys he h with hsys | ⟨-, hsys⟩ | ⟨src, osc, rfl⟩
  · exact .inl (.of_sys_eq hsys)
  · exact .inl ⟨by rw [hsys], by rw [hsys]⟩
  · cases h
    exact .inr ⟨rfl, rfl⟩

/-- A step leaves the interrupt state alone, or it is one of the four that reach it: interrupt entry, `EI`, `IRET`, and
reset. -/
theorem step_context_cases {s t : State} (h : step s = .next t) :
    ContextKept s t ∨ (takesInterrupt s = true ∧ t.sys.ie = 0) ∨ (executes s = some .ei ∧ t.sys.inh = 0) ∨
    (executes s = some .iret ∧ s.sys.inh ≠ 0 ∧ t.sys.inh = 0) ∨ (t.sys.ie = 0 ∧ t.sys.inh = 0) := by
  rcases step_cases h with ⟨htakes, rfl⟩ | ⟨i, hi, hexec⟩ | ⟨-, -, -, -, rfl⟩ | ⟨-, -, rfl⟩ | ⟨e, -, hne, hagent⟩
  · exact .inr (.inl ⟨htakes, interruptEntry_ie _⟩)
  · rcases exec_context_cases hexec with ⟨hie, hinh⟩ | ⟨rfl, hmain⟩ | ⟨rfl, hhandler, hmain⟩
    · exact .inl ⟨hie, hinh⟩
    · exact .inr (.inr (.inl ⟨hi, hmain⟩))
    · exact .inr (.inr (.inr (.inl ⟨hi, hhandler, hmain⟩)))
  · exact .inl ⟨rfl, rfl⟩
  · exact .inl ⟨rfl, rfl⟩
  · rcases agentStep_context_cases hne hagent with ⟨hie, hinh⟩ | hreset
    · exact .inl ⟨hie, hinh⟩
    · exact .inr (.inr (.inr (.inr hreset)))

theorem step_contextLegal {s t : State} (hlegal : ContextLegal s) (h : step s = .next t) : ContextLegal t := by
  rcases step_context_cases h with hkept | ⟨-, hdisabled⟩ | ⟨-, hmain⟩ | ⟨-, -, hmain⟩ | ⟨-, hmain⟩
  · exact hkept.contextLegal hlegal
  · exact contextLegal_of_disabled hdisabled
  · exact contextLegal_of_main hmain
  · exact contextLegal_of_main hmain
  · exact contextLegal_of_main hmain

/-- While interrupts are disabled no entry is made. -/
theorem enabled_of_takesInterrupt {s : State} (h : takesInterrupt s = true) : s.sys.ie = 1 := by
  simp only [takesInterrupt, Bool.and_eq_true] at h
  obtain ⟨-, htakeable⟩ := h
  exact ((interruptTakeable_iff s).mp htakeable).1

/-- In main context with interrupts disabled, `EI` is the only way out: an entry wants them enabled, `IRET` faults. -/
theorem step_stays_disabled {s t : State} (hdisabled : s.sys.ie = 0) (hmain : s.sys.inh = 0) (h : step s = .next t)
    (hei : executes s ≠ some .ei) : t.sys.ie = 0 ∧ t.sys.inh = 0 := by
  rcases step_context_cases h with hkept | ⟨htakes, -⟩ | ⟨hexecutes, -⟩ | ⟨-, hhandler, -⟩ | hreset
  · exact ⟨hkept.ie.trans hdisabled, hkept.inh.trans hmain⟩
  · exact absurd (hdisabled.symm.trans (enabled_of_takesInterrupt htakes)) zeroBit_ne_one
  · exact absurd hexecutes hei
  · exact absurd hmain hhandler
  · exact hreset

/-- Settles O12: the invariant, the launch state, and what holds until an `EI`. -/
theorem interruptStateInvariant : Obligations.InterruptStateInvariant := by
  unfold Obligations.InterruptStateInvariant
  exact ⟨fun _ _ => step_contextLegal, fun _ _ _ _ => ⟨rfl, rfl⟩, fun _ _ => step_stays_disabled⟩

end Sys2Proof.Machine

/-! The phase that the stored state names (R440), and the context after reset (R521). -/

namespace Sys2Proof.Machine

theorem clockConfigured_iff (c : Clk) :
    clockConfigured c = true ↔
      c.sws = 0 ∧ c.hsion = 1 ∧ c.hsirdy = 1 ∧ c.ppre2 = 0 ∧ c.timen = 1 ∧ c.adcen = 1 := by
  simp [clockConfigured, clkStable_iff, and_assoc]

theorem timerConfigured_iff (t : Tim) :
    timerConfigured t = true ↔ t.oc1m = 6 ∧ t.oc1pe = 1 ∧ t.arpe = 1 ∧ t.cen = 1 := by
  simp [timerConfigured, and_assoc]

theorem phase_of_clock_unconfigured {s : State} (h : clockConfigured s.clk = false) : phase s = 0 := by
  simp [phase, h]

/-- R440's table, line by line: each line's condition excludes those above it. -/
theorem phase_cases (s : State) :
    (clockConfigured s.clk = false ∧ phase s = 0) ∨
    (clockConfigured s.clk = true ∧
      ((timerConfigured s.tim = false ∧ phase s = 1) ∨
      (timerConfigured s.tim = true ∧
        ((s.adc.adon = 0 ∧ phase s = 2) ∨
        (s.adc.adon = 1 ∧ (s.adc.adons = 0 ∨ s.adc.armed = 0) ∧ phase s = 3) ∨
        (s.adc.adon = 1 ∧ s.adc.adons = 1 ∧ s.adc.armed = 1 ∧
          ((s.adc.busy = 1 ∧ phase s = 5) ∨
          (s.adc.busy = 0 ∧ s.adc.eoc = 1 ∧ phase s = 6) ∨
          (s.adc.busy = 0 ∧ s.adc.eoc = 0 ∧ phase s = 4))))))) := by
  cases hclock : clockConfigured s.clk with
  | false => exact .inl ⟨rfl, phase_of_clock_unconfigured hclock⟩
  | true =>
    refine .inr ⟨rfl, ?_⟩
    cases htimer : timerConfigured s.tim with
    | false => exact .inl ⟨rfl, by simp [phase, hclock, htimer]⟩
    | true =>
      refine .inr ⟨rfl, ?_⟩
      rcases bit_zero_or_one s.adc.adon with hoff | hon
      · exact .inl ⟨hoff, by simp [phase, hclock, htimer, hoff]⟩
      rcases bit_zero_or_one s.adc.adons with hwaits | hready
      · exact .inr (.inl ⟨hon, .inl hwaits, by simp [phase, hclock, htimer, hon, hwaits]⟩)
      rcases bit_zero_or_one s.adc.armed with hdisarmed | harmed
      · exact .inr (.inl ⟨hon, .inr hdisarmed, by simp [phase, hclock, htimer, hon, hdisarmed]⟩)
      refine .inr (.inr ⟨hon, hready, harmed, ?_⟩)
      rcases bit_zero_or_one s.adc.busy with hidle | hbusy
      · rcases bit_zero_or_one s.adc.eoc with hnone | hdone
        · exact .inr (.inr ⟨hidle, hnone, by simp [phase, hclock, htimer, hon, hready, harmed, hidle, hnone]⟩)
        · exact .inr (.inl ⟨hidle, hdone, by simp [phase, hclock, htimer, hon, hready, harmed, hidle, hdone]⟩)
      · exact .inl ⟨hbusy, by simp [phase, hclock, htimer, hon, hready, harmed, hbusy]⟩

/-- Settles O57: in the line of R440's table that applies, every bit that the conditions read is known. -/
theorem phaseNamesTheState : Obligations.PhaseNamesTheState := by
  unfold Obligations.PhaseNamesTheState
  intro s
  rw [← clockConfigured_iff, ← timerConfigured_iff]
  rcases phase_cases s with ⟨hclock, h⟩ | ⟨hclock, ⟨htimer, h⟩ | ⟨htimer, ⟨hoff, h⟩ | ⟨hon, hwaits | hdisarmed, h⟩ |
    ⟨hon, hready, harmed, ⟨hbusy, h⟩ | ⟨hidle, hdone, h⟩ | ⟨hidle, hnone, h⟩⟩⟩⟩ <;>
    simp [*, value, outputs, gated, Field.group, Field.row]

/-- Settles O58: every bit that the derived values read is 0, and no gate bit is set, so the clock is not configured. -/
theorem resetEntersMainContext : Obligations.ResetEntersMainContext := by
  unfold Obligations.ResetEntersMainContext
  intro src osc imem param
  have hphase : phase (State.launch src osc imem param) = 0 := by
    refine phase_of_clock_unconfigured (Bool.eq_false_iff.mpr fun hclock => ?_)
    obtain ⟨-, -, -, -, htimen, -⟩ := (clockConfigured_iff _).mp hclock
    exact zeroBit_ne_one htimen
  have hoc1ref : oc1ref (State.launch src osc imem param).tim = 0 := oc1ref_of_frozen rfl
  have hstatus : statusWord (State.launch src osc imem param).adc = 0 := by simp [statusWord, State.launch]
  exact ⟨_, rfl, rfl, rfl, rfl, rfl, rfl, hoc1ref, rfl, hstatus, hphase, rfl⟩

end Sys2Proof.Machine

/-! Faults (R461 to R463): a step that records a cause does nothing else, and a faulted sequencer stands still until
reset while the other agents go on as they would without the fault. -/

namespace Sys2Proof.Machine

/-! ### Recording a cause (R463) -/

/-- An operation records a cause, with the draw that it may have counted before (log 21), or leaves the cause alone. -/
theorem exec_fault_cases {i : Instr} {s t : State} (h : exec i s = .next t) :
    (∃ c n, t = recordFault c (countDraws n s)) ∨ t.sys.fcause = s.sys.fcause := by
  rcases exec_cases h with hfault | ⟨x, v, n, -, rfl⟩ | ⟨f, x, v, n, -, -, rfl⟩ | ⟨f, k, x, n, -, -, rfl | rfl⟩ |
    ⟨-, rfl⟩ | ⟨-, rfl⟩ | ⟨a, -, rfl⟩ | ⟨-, -, rfl⟩ | ⟨-, -, rfl⟩
  · exact .inl hfault
  · exact .inr (by simp)
  · exact .inr (by simp)
  · exact .inr (by simp)
  · exact .inr (by simp)
  · exact .inr rfl
  · exact .inr rfl
  · exact .inr rfl
  · exact .inr rfl
  · exact .inr rfl

@[simp] theorem interruptEntry_fcause (s : State) : (interruptEntry s).sys.fcause = s.sys.fcause := by
  unfold interruptEntry
  split <;> rfl

/-- No agent but the sequencer records a cause. -/
theorem agentStep_fcause {e : AgentStep} {s t : State} (he : e ≠ .seq) (h : agentStep e s = .next t) :
    t.sys.fcause = s.sys.fcause ∨ t.sys.fcause = 0 := by
  rcases agentStep_sys he h with hsys | ⟨-, hsys⟩ | ⟨src, osc, rfl⟩
  · exact .inl (by rw [hsys])
  · exact .inl (by rw [hsys])
  · cases h
    exact .inr rfl

theorem sequencerTurn_of_executes {s : State} {i : Instr} (h : executes s = some i) :
    sequencerTurn s = true ∧ faulted s = false ∧ interruptTakeable s = false := by
  unfold executes at h
  split at h
  · rename_i hruns
    simp only [Bool.and_eq_true, Bool.not_eq_true'] at hruns
    obtain ⟨⟨hturn, hrunning⟩, hquiet⟩ := hruns
    exact ⟨hturn, hrunning, hquiet⟩
  · cases h

/-- A step records a cause in the sequencer's turn and does nothing else but the model's own counting, or the cause
stays or is cleared by reset. -/
theorem step_fault_cases {s t : State} (h : step s = .next t) :
    (sequencerTurn s = true ∧ ∃ c n, t = recordFault c (countDraws n { s with agenda := s.agenda.tail })) ∨
    t.sys.fcause = s.sys.fcause ∨ t.sys.fcause = 0 := by
  rcases step_cases h with ⟨-, rfl⟩ | ⟨i, hi, hexec⟩ | ⟨hturn, -, -, -, rfl⟩ | ⟨-, -, rfl⟩ | ⟨e, -, hne, hagent⟩
  · exact .inr (.inl (interruptEntry_fcause _))
  · obtain ⟨hturn, -⟩ := sequencerTurn_of_executes hi
    rcases exec_fault_cases hexec with hfault | hkept
    · exact .inl ⟨hturn, hfault⟩
    · exact .inr (.inl hkept)
  · exact .inl ⟨hturn, .illop, 0, rfl⟩
  · exact .inr (.inl rfl)
  · rcases agentStep_fcause hne hagent with hkept | hcleared
    · exact .inr (.inl hkept)
    · exact .inr (.inr hcleared)

/-- Settles O6: a cause that the step newly records leaves only the first of the three cases. -/
theorem faultsArePrecise : Obligations.FaultsArePrecise := by
  unfold Obligations.FaultsArePrecise
  intro s t h hrunning hfaulted
  rcases step_fault_cases h with ⟨hturn, c, n, rfl⟩ | hkept | hcleared
  · exact ⟨hturn, rfl⟩
  · exact absurd (hkept.trans hrunning) hfaulted
  · exact absurd hcleared hfaulted

/-! ### The sequencer of a faulted machine (R462) -/

theorem faulted_iff (s : State) : faulted s = true ↔ s.sys.fcause ≠ 0 := by
  simp [faulted]

/-- What only the sequencer's operations, its interrupt entry and reset move: `pc`, its group but for the tick's pending
bit, and the clock group but for the status that the clock hardware reports (R42, R44). -/
structure SequencerStill (s t : State) : Prop where
  pc : t.pc = s.pc
  sys : t.sys = { s.sys with tickp := t.sys.tickp }
  clk : t.clk = { s.clk with sws := t.clk.sws, hsirdy := t.clk.hsirdy }

theorem SequencerStill.of_eq {s t : State} (hpc : t.pc = s.pc) (hsys : t.sys = s.sys) (hclk : t.clk = s.clk) :
    SequencerStill s t :=
  ⟨hpc, by rw [hsys], by rw [hclk]⟩

theorem timerTick_pc (s : State) : (timerTick s).pc = s.pc := by
  unfold timerTick
  split
  · exact putTim_pc _ s
  · rfl

/-- No agent but the sequencer moves what is the sequencer's, except by a reset. -/
theorem agentStep_sequencerStill {e : AgentStep} {s t : State} (he : e ≠ .seq) (hreset : ∀ src osc, e ≠ .rst src osc)
    (h : agentStep e s = .next t) : SequencerStill s t := by
  cases e with
  | seq => exact absurd rfl he
  | envSysclkInternal => cases h; rw [envSysclkInternal_eq]; exact ⟨rfl, rfl, rfl⟩
  | envOscReady => cases h; unfold envOscReady; split <;> exact ⟨rfl, rfl, rfl⟩
  | envTick => cases h; exact ⟨rfl, rfl, rfl⟩
  | envInjected a b c d => cases h; unfold envInjected; split <;> exact ⟨rfl, rfl, rfl⟩
  | appRead c => cases h; exact ⟨rfl, rfl, rfl⟩
  | appWrite c v => cases h; cases c <;> exact ⟨rfl, rfl, rfl⟩
  | timerTick => cases h; exact .of_eq (timerTick_pc s) (timerTick_sys s) (timerTick_clk s)
  | adcReady => cases h; unfold adcReady; split <;> exact ⟨rfl, rfl, rfl⟩
  | adcComplete v => cases h; unfold adcComplete; split <;> exact ⟨rfl, rfl, rfl⟩
  | rst src osc => exact absurd rfl (hreset src osc)

theorem sequencerTurn_of_otherHead {s : State} {e : AgentStep} (hhead : s.agenda.head? = some e) (hne : e ≠ .seq) :
    sequencerTurn s = false := by
  obtain ⟨rest, hagenda⟩ := List.head?_eq_some_iff.mp hhead
  cases e with
  | seq => exact absurd rfl hne
  | _ => simp [sequencerTurn, hagenda]

/-- A step of a faulted machine is the sequencer's, which only uses up its turn, or another agent's. -/
theorem step_cases_of_faulted {s t : State} (hfaulted : faulted s = true) (h : step s = .next t) :
    t = { s with agenda := s.agenda.tail } ∨
    (sequencerTurn s = false ∧ ∃ e, s.agenda.head? = some e ∧ e ≠ .seq ∧
      agentStep e { s with agenda := s.agenda.tail } = .next t) := by
  rcases step_cases h with ⟨htakes, -⟩ | ⟨i, hi, -⟩ | ⟨-, hrunning, -⟩ | ⟨-, -, ht⟩ | ⟨e, hhead, hne, hagent⟩
  · simp [takesInterrupt, hfaulted] at htakes
  · obtain ⟨-, hrunning, -⟩ := sequencerTurn_of_executes hi
    simp [hfaulted] at hrunning
  · simp [hfaulted] at hrunning
  · exact .inl ht
  · exact .inr ⟨sequencerTurn_of_otherHead hhead hne, e, hhead, hne, hagent⟩

theorem step_still_of_faulted {s t : State} (hfaulted : faulted s = true) (hreset : resetTurn s = false)
    (h : step s = .next t) : SequencerStill s t := by
  rcases step_cases_of_faulted hfaulted h with rfl | ⟨-, e, hhead, hne, hagent⟩
  · exact ⟨rfl, rfl, rfl⟩
  · have hnoReset : ∀ src osc, e ≠ .rst src osc := by
      rintro src osc rfl
      exact absurd (resetTurn_of_head hhead) (Bool.eq_false_iff.mp hreset)
    obtain ⟨hpc, hsys, hclk⟩ := agentStep_sequencerStill hne hnoReset hagent
    exact ⟨hpc, hsys, hclk⟩

theorem faultOut_of_faulted {s : State} (h : s.sys.fcause ≠ 0) : (outputs s).faultOut = 1 := by
  have hfaulted := (faulted_iff s).mpr h
  simp only [outputs, hfaulted]
  rfl

/-! ### The other agents of a faulted machine (R462) -/

/-- The same state without the fault. -/
def withoutFault (s : State) : State := { s with sys := { s.sys with fcause := 0 } }

theorem putTim_withoutFault (t : Tim) (s : State) : putTim t (withoutFault s) = withoutFault (putTim t s) := by
  by_cases hstarts : startsConversion (oc1ref s.tim) (oc1ref t) s
  · rw [putTim_of_starts hstarts, putTim_of_starts (s := withoutFault s) hstarts]
    rfl
  · rw [putTim_of_not_starts hstarts, putTim_of_not_starts (s := withoutFault s) hstarts]
    rfl

theorem envOscReady_withoutFault (s : State) : envOscReady (withoutFault s) = withoutFault (envOscReady s) := by
  rw [envOscReady, envOscReady, apply_ite withoutFault]
  rfl

theorem envInjected_withoutFault (a b c d : Sample) (s : State) :
    envInjected a b c d (withoutFault s) = withoutFault (envInjected a b c d s) := by
  rw [envInjected, envInjected, apply_ite withoutFault]
  rfl

theorem adcReady_withoutFault (s : State) : adcReady (withoutFault s) = withoutFault (adcReady s) := by
  rw [adcReady, adcReady, apply_ite withoutFault]
  rfl

theorem adcComplete_withoutFault (v : Sample) (s : State) :
    adcComplete v (withoutFault s) = withoutFault (adcComplete v s) := by
  rw [adcComplete, adcComplete, apply_ite withoutFault]
  rfl

theorem timerTick_withoutFault (s : State) : timerTick (withoutFault s) = withoutFault (timerTick s) := by
  rw [timerTick, timerTick, apply_ite withoutFault, ← putTim_withoutFault]
  rfl

/-- No agent but the sequencer looks at the fault cause: its condition and its effect are those without the fault. -/
theorem agentStep_withoutFault {e : AgentStep} (he : e ≠ .seq) (s : State) :
    ∃ t, agentStep e s = .next t ∧ agentStep e (withoutFault s) = .next (withoutFault t) := by
  cases e with
  | seq => exact absurd rfl he
  | envSysclkInternal =>
    refine ⟨_, rfl, ?_⟩
    rw [agentStep, envSysclkInternal_eq, envSysclkInternal_eq]
    rfl
  | envOscReady => exact ⟨_, rfl, congrArg _ (envOscReady_withoutFault s)⟩
  | envTick => exact ⟨_, rfl, rfl⟩
  | envInjected a b c d => exact ⟨_, rfl, congrArg _ (envInjected_withoutFault a b c d s)⟩
  | appRead c => exact ⟨_, rfl, rfl⟩
  | appWrite c v => cases c <;> exact ⟨_, rfl, rfl⟩
  | timerTick => exact ⟨_, rfl, congrArg _ (timerTick_withoutFault s)⟩
  | adcReady => exact ⟨_, rfl, congrArg _ (adcReady_withoutFault s)⟩
  | adcComplete v => exact ⟨_, rfl, congrArg _ (adcComplete_withoutFault v s)⟩
  | rst src osc => exact ⟨_, rfl, rfl⟩

theorem step_of_faulted_idle {s : State} (hfaulted : s.sys.fcause ≠ 0) (hagenda : s.agenda = []) :
    step s = .fault .sequencerStopped := by
  simp only [step, hagenda, (faulted_iff s).mpr hfaulted, if_true]

/-- Settles O7: what stays, the other agents' steps beside those without the fault, and the empty agenda. -/
theorem faultedSequencerIsStuck : Obligations.FaultedSequencerIsStuck := by
  unfold Obligations.FaultedSequencerIsStuck
  refine ⟨fun s t h hcause hreset => ?_, fun s e rest hagenda hne => ⟨step_of_agent hagenda, ?_⟩,
    fun s => step_of_faulted_idle⟩
  · have hfaulted := (faulted_iff s).mpr hcause
    obtain ⟨hpc, hsys, hclk⟩ := step_still_of_faulted hfaulted hreset h
    have hstays : t.sys.fcause ≠ 0 := by rwa [hsys]
    refine ⟨hpc, hsys, hclk, faultOut_of_faulted hstays, fun hturn => ?_⟩
    rcases step_cases_of_faulted hfaulted h with ht | ⟨hother, -⟩
    · exact ht
    · exact absurd hturn (Bool.eq_false_iff.mp hother)
  · obtain ⟨t, hstep, hwithout⟩ := agentStep_withoutFault hne { s with agenda := rest }
    exact ⟨t, (step_of_agent hagenda).trans hstep, (step_of_agent (s := withoutFault s) hagenda).trans hwithout⟩

end Sys2Proof.Machine

/-! The `undefined` points (R263, R298, R362, R466): a step that keeps the order of R531 draws no open value and makes
no context fault, and at the points the drawn values stay where the model puts them (log 10, 11, 12). -/

namespace Sys2Proof.Machine

/-! ### What the order is kept for: no draw, no context fault -/

/-- From `s` to `t` no open value was drawn (log 7), and no context fault was recorded (R551). -/
structure Determined (s t : State) : Prop where
  draws : t.draws = s.draws
  context : s.sys.fcause ≠ 6 → t.sys.fcause ≠ 6

theorem Determined.of_eq {s t : State} (hdraws : t.draws = s.draws) (hfcause : t.sys.fcause = s.sys.fcause) :
    Determined s t :=
  ⟨hdraws, by rw [hfcause]; exact id⟩

/-- An outcome that is a next state, reached without a draw and without a context fault. -/
def DeterminedOutcome (s : State) (o : Host.Outcome State Fault Refusal) : Prop := ∃ t, o = .next t ∧ Determined s t

theorem DeterminedOutcome.of_next {s t : State} {o : Host.Outcome State Fault Refusal} (h : o = .next t)
    (hdraws : t.draws = s.draws) (hfcause : t.sys.fcause = s.sys.fcause) : DeterminedOutcome s o :=
  ⟨t, h, .of_eq hdraws hfcause⟩

theorem Cause.code_ne_six {c : Cause} (h : c ≠ .badCtx) : c.code ≠ 6 := by
  cases c with
  | badCtx => exact absurd rfl h
  | _ => decide

theorem raise_determined {c : Cause} (hc : c ≠ .badCtx) (s : State) : DeterminedOutcome s (raise c s) :=
  ⟨recordFault c s, rfl, rfl, fun _ => c.code_ne_six hc⟩

/-! ### Field writes that draw nothing -/

/-- An ungated write of a legal value outside the `undefined` points draws nothing (R466). -/
theorem writeOpen_draws {x : Field} {v : BusWord} {s : State} (hlegal : x.legal v = true) (hopen : gated x s = false)
    (hdef : undefinedWrite x v s = false) : (writeOpen x v s).draws = s.draws := by
  cases x
  case clkTimen => rw [writeOpen, writeTimen_defined hdef]
  case clkAdcen => rw [writeOpen, writeAdcen_defined hdef]
  case timCcr1 => exact putTim_draws _ s
  case timUg =>
    rcases Field.bit_of_legal rfl hlegal with rfl | rfl
    · rfl
    · have hdefined : updateUndefined s.tim = false := by simpa [undefinedWrite, hopen] using hdef
      obtain ⟨hoc1pe, harpe⟩ := preloads_of_defined hdefined
      have hug : writeOpen .timUg 1 s = putTim (updateEvent s.tim) s := writeUg_one hoc1pe harpe
      rw [hug, putTim_draws]
  case adcSwstart =>
    rcases Field.bit_of_legal rfl hlegal with rfl | rfl
    · rfl
    · have hdefined : startUndefined s.adc = false := by simpa [undefinedWrite, hopen] using hdef
      obtain ⟨hon, hready⟩ := (startUndefined_eq_false_iff _).mp hdefined
      have harm : writeOpen .adcSwstart 1 s = { s with adc := { s.adc with armed := 1 } } := writeSwstart_one hon hready
      rw [harm]
  case adcEoc | adcJeoc => rw [writeOpen]; split <;> rfl
  case clkHsion | timArr | adcAdon => rfl
  all_goals exact storeField_draws _ v s

/-- A write that keeps the order: to a field that is not gated, outside the `undefined` points. -/
structure WriteInOrder (x : Field) (v : BusWord) (s : State) : Prop where
  ungated : gated x s = false
  defined : undefinedWrite x v s = false

/-- A read's side effect is no part of what a write's order rests on: it clears `ADC.EOC` (R111). -/
theorem WriteInOrder.readEffect {x : Field} {v : BusWord} {s : State} (h : WriteInOrder x v s) (y : Field) :
    WriteInOrder x v (readEffect y s) := by
  rcases readEffect_cases y s with heffect | ⟨-, -, heffect⟩
  · rwa [heffect]
  · rw [heffect]
    cases x <;> exact ⟨h.ungated, h.defined⟩

theorem writeField_draws {x : Field} {v : BusWord} {s : State} (hlegal : x.legal v = true) (h : WriteInOrder x v s) :
    (writeField x v s).draws = s.draws := by
  rw [writeField_open h.ungated]
  exact writeOpen_draws hlegal h.ungated h.defined

theorem writeChecked_determined {x : Field} {v : BusWord} {s : State}
    (h : x.legal v = true → WriteInOrder x v s) : DeterminedOutcome s (writeChecked x v s) := by
  cases hlegal : x.legal v with
  | false => rw [writeChecked_of_illegal hlegal]; exact raise_determined (by decide) s
  | true =>
    exact .of_next (writeChecked_of_legal hlegal s) (writeField_draws hlegal (h hlegal)) (by rw [writeField_sys])

/-- The checks of access and value, then the write (R185), as `WRI` and `WRP` make them. -/
theorem accessThenValue_determined {x : Field} {v : BusWord} {s : State}
    (h : x.writable = true → x.legal v = true → WriteInOrder x v s) :
    DeterminedOutcome s (if x.writable then writeChecked x v s else raise .badAccess s) := by
  split
  · rename_i hw
    exact writeChecked_determined (h hw)
  · exact raise_determined (by decide) s

/-- The write of a constant bit, as `SET` and `CLR` make it. -/
theorem writeBit_determined {f : FieldId} {x : Field} {v : BusWord} {s : State} (hf : Field.ofId f = some x)
    (hv : v = 0 ∨ v = 1) (h : x.writable = true → x.width = 1 → x.legal v = true → WriteInOrder x v s) :
    DeterminedOutcome s (writeBit f v s) := by
  by_cases hbit : x.writable = true ∧ x.width = 1
  · obtain ⟨hw, hwidth⟩ := hbit
    have hlegal : x.legal v = true := by
      obtain ⟨hzero, hone⟩ := Field.legal_bit hw hwidth
      rcases hv with rfl | rfl
      · exact hzero
      · exact hone
    exact .of_next (writeBit_of_bit hf hw hwidth v s) (writeField_draws hlegal (h hw hwidth hlegal))
      (by rw [writeField_sys])
  · have hno : x.writable = false ∨ x.width ≠ 1 := by
      rwa [not_and_or, Bool.not_eq_true] at hbit
    rw [writeBit_of_noBit hf hno]
    exact raise_determined (by decide) s

/-! ### Operations -/

/-- An operation that keeps R531's points 1 to 4 and 6 in a state. -/
structure InOrder (i : Instr) (s : State) : Prop where
  read : ∀ x, reads i = some x → gated x s = false
  write : ∀ x v, writes i s = some (x, v) → WriteInOrder x v s
  ei : i = .ei → s.sys.inh = 0
  iret : i = .iret → s.sys.inh = 1

/-- An operation that keeps the order, with its fields assigned. -/
theorem exec_determined_of_assigned {i : Instr} {s : State} (h : InOrder i s)
    (hassigned : ∀ f ∈ fieldOperands i, ∃ x, Field.ofId f = some x) : DeterminedOutcome s (exec i s) := by
  cases i with
  | nop => exact .of_next (exec_nop s) rfl rfl
  | halt => exact .of_next (exec_halt s) rfl rfl
  | iret => exact .of_next (exec_iret_of_handler (h.iret rfl)) rfl rfl
  | ei => exact .of_next (exec_ei_of_main (h.ei rfl)) rfl rfl
  | wri f k =>
    obtain ⟨x, hf⟩ := hassigned f (List.mem_singleton_self f)
    rw [exec_wri hf]
    exact accessThenValue_determined fun hw hlegal => h.write x _ (by simp [writes, passing, immediate, hf, hw, hlegal])
  | wrp f p =>
    obtain ⟨x, hf⟩ := hassigned f (List.mem_singleton_self f)
    by_cases hp : p.toNat < 9
    · rw [exec_wrp hf hp]
      exact accessThenValue_determined fun hw hlegal =>
        h.write x _ (by simp [writes, passing, hf, strap_some s hp, hw, hlegal])
    · rw [exec_wrp_of_noStrap hf hp]
      exact raise_determined (by decide) s
  | set f =>
    obtain ⟨x, hf⟩ := hassigned f (List.mem_singleton_self f)
    exact writeBit_determined hf (.inr rfl) fun hw hwidth hlegal =>
      h.write x 1 (by simpa [writes, passing, hf, hw, hwidth] using hlegal)
  | clr f =>
    obtain ⟨x, hf⟩ := hassigned f (List.mem_singleton_self f)
    exact writeBit_determined hf (.inl rfl) fun hw hwidth hlegal =>
      h.write x 0 (by simpa [writes, passing, hf, hw, hwidth] using hlegal)
  | inc f =>
    obtain ⟨x, hf⟩ := hassigned f (List.mem_singleton_self f)
    by_cases hc : x.countable = true
    · have hopen : gated x s = false := h.read x (by simp [reads, hf, hc])
      rw [exec_inc_of_open hf hc hopen]
      exact writeChecked_determined fun hlegal =>
        h.write x _ (by simp [writes, passing, hf, hc, peek_open hopen, hlegal])
    · rw [exec_inc_of_not_countable hf hc]
      exact raise_determined (by decide) s
  | mov fd fs =>
    obtain ⟨d, hd⟩ := hassigned fd (by simp [fieldOperands])
    obtain ⟨src, hs⟩ := hassigned fs (by simp [fieldOperands])
    cases hw : d.writable with
    | false =>
      rw [exec_mov_of_readOnly hd hs hw]
      exact raise_determined (by decide) s
    | true =>
      have hopen : gated src s = false := h.read src (by simp [reads, hd, hs, hw])
      cases hlegal : d.legal (value src s) with
      | false =>
        rw [exec_mov_of_illegal hd hs hw hopen hlegal]
        exact raise_determined (by decide) s
      | true =>
        have horder : WriteInOrder d (value src s) s :=
          h.write d _ (by simp [writes, passing, hd, hs, hw, peek_open hopen, hlegal])
        obtain ⟨-, -, -, -, -, -, -, -, hdraws⟩ := readEffect_kept src s
        exact .of_next (exec_mov_of_legal hd hs hw hopen hlegal)
          ((writeField_draws hlegal (horder.readEffect src)).trans hdraws) (by rw [writeField_sys, readEffect_sys])
  | wait f k =>
    obtain ⟨x, hf⟩ := hassigned f (List.mem_singleton_self f)
    exact .of_next (exec_wait_of_open hf (h.read x hf) k) rfl rfl
  | jmp a => exact .of_next (exec_jmp a s) rfl rfl
  | bts j a =>
    by_cases hj : j.toNat ≤ 15
    · exact .of_next (exec_bts hj a s) rfl rfl
    · obtain ⟨hbts, -⟩ := exec_branch_of_badIndex (Nat.not_le.mp hj) a s
      rw [hbts]
      exact raise_determined (by decide) s
  | btc j a =>
    by_cases hj : j.toNat ≤ 15
    · exact .of_next (exec_btc hj a s) rfl rfl
    · obtain ⟨-, hbtc⟩ := exec_branch_of_badIndex (Nat.not_le.mp hj) a s
      rw [hbtc]
      exact raise_determined (by decide) s
  | spin p =>
    by_cases hp : p.toNat < 9
    · exact .of_next (exec_spin hp s) rfl rfl
    · rw [exec_spin_of_noStrap hp]
      exact raise_determined (by decide) s
  | ldt f =>
    obtain ⟨x, hf⟩ := hassigned f (List.mem_singleton_self f)
    exact .of_next (exec_ldt_of_open hf (h.read x hf)) rfl rfl

/-- An operation that keeps the order draws nothing and makes no context fault, also where a field is unassigned. -/
theorem exec_determined {i : Instr} {s : State} (h : InOrder i s) : DeterminedOutcome s (exec i s) := by
  by_cases hunassigned : ∃ f ∈ fieldOperands i, Field.ofId f = none
  · obtain ⟨f, hmem, hnone⟩ := hunassigned
    rw [exec_of_unassigned hmem hnone]
    exact raise_determined (by decide) s
  · exact exec_determined_of_assigned h fun f hmem =>
      Option.ne_none_iff_exists'.mp fun hnone => hunassigned ⟨f, hmem, hnone⟩

/-! ### Steps that keep the order (R531) -/

theorem undefinedWrite_agenda (x : Field) (v : BusWord) (a : List AgentStep) (s : State) :
    undefinedWrite x v { s with agenda := a } = undefinedWrite x v s := by
  cases x <;> rfl

theorem context_of_keepsOrder {s : State} (horder : keepsOrder s = true) :
    (executes s = some .ei → s.sys.inh = 0) ∧ (executes s = some .iret → s.sys.inh = 1) := by
  simp only [keepsOrder, misusesContext, Bool.and_eq_true, Bool.not_eq_true', Bool.or_eq_false_iff,
    Bool.and_eq_false_iff, decide_eq_false_iff_not] at horder
  obtain ⟨-, hei, hiret⟩ := horder
  exact ⟨fun h => bit_ne_one (hei.resolve_left (not_not_intro h)),
    fun h => bit_ne_zero (hiret.resolve_left (not_not_intro h))⟩

theorem gated_of_reads {s : State} {i : Instr} {x : Field} (horder : keepsOrder s = true) (hi : executes s = some i)
    (hread : reads i = some x) : gated x s = false := by
  simp only [keepsOrder, accessesGated, Bool.and_eq_true, Bool.not_eq_true', Bool.or_eq_false_iff] at horder
  obtain ⟨⟨-, hungated, -⟩, -⟩ := horder
  simpa [readsGated, hi, hread] using hungated

theorem inOrder_of_keepsOrder {s : State} {i : Instr} (horder : keepsOrder s = true) (hi : executes s = some i)
    (agenda : List AgentStep) : InOrder i { s with agenda := agenda } where
  read x hread := by rw [gated_agenda]; exact gated_of_reads horder hi hread
  write x v hwrites := by
    obtain ⟨hdef, hungated⟩ := keepsOrder_spec horder
    have hwrite : writesNow s = some (x, v) := by
      rw [writes_agenda] at hwrites
      simpa [writesNow, hi] using hwrites
    refine ⟨?_, ?_⟩
    · rw [gated_agenda]
      exact gated_of_writesNow hwrite hungated
    · rw [undefinedWrite_agenda]
      exact undefinedWrite_of_writesNow hdef hwrite
  ei he := (context_of_keepsOrder horder).1 (he ▸ hi)
  iret he := (context_of_keepsOrder horder).2 (he ▸ hi)

/-- No agent but the sequencer draws an open value: what the environment presents is in the agenda. -/
theorem agentStep_draws {e : AgentStep} {s t : State} (he : e ≠ .seq) (h : agentStep e s = .next t) :
    t.draws = s.draws := by
  cases e with
  | seq => exact absurd rfl he
  | envSysclkInternal => cases h; rw [envSysclkInternal_eq]
  | envOscReady => cases h; unfold envOscReady; split <;> rfl
  | envTick => cases h; rfl
  | envInjected a b c d => cases h; unfold envInjected; split <;> rfl
  | appRead c => cases h; rfl
  | appWrite c v => cases h; cases c <;> rfl
  | timerTick =>
    cases h
    unfold timerTick
    split
    · exact putTim_draws _ s
    · rfl
  | adcReady => cases h; unfold adcReady; split <;> rfl
  | adcComplete v => cases h; unfold adcComplete; split <;> rfl
  | rst src osc => cases h; rfl

theorem interruptEntry_draws (s : State) : (interruptEntry s).draws = s.draws := by
  unfold interruptEntry
  split <;> rfl

theorem step_determined {s t : State} (h : step s = .next t) (horder : keepsOrder s = true) : Determined s t := by
  rcases step_cases h with ⟨-, rfl⟩ | ⟨i, hi, hexec⟩ | ⟨-, -, -, -, rfl⟩ | ⟨-, -, rfl⟩ | ⟨e, -, hne, hagent⟩
  · exact .of_eq (interruptEntry_draws _) (interruptEntry_fcause _)
  · obtain ⟨u, hu, hdraws, hcontext⟩ := exec_determined (inOrder_of_keepsOrder horder hi s.agenda.tail)
    rw [hexec] at hu
    cases hu
    exact ⟨hdraws, hcontext⟩
  · exact ⟨rfl, fun _ => Cause.illop.code_ne_six (by decide)⟩
  · exact ⟨rfl, id⟩
  · have hdraws := agentStep_draws hne hagent
    refine ⟨hdraws, fun hcontext => ?_⟩
    rcases agentStep_fcause hne hagent with hkept | hcleared
    · rwa [hkept]
    · rw [hcleared]
      decide

/-! ### The alternatives at the `undefined` points (log 10, 11, 12) -/

theorem gateUndefined_of_unstable {c : Clk} (h : clkStable c = false) : gateUndefined 1 0 c = true := by
  simp [gateUndefined, h]

theorem updateUndefined_iff (t : Tim) : updateUndefined t = true ↔ t.oc1pe = 0 ∨ t.arpe = 0 := by
  simp [updateUndefined]

theorem startUndefined_of_not_ready {a : Adc} (h : a.adon = 0 ∨ a.adons = 0) : startUndefined a = true := by
  rcases h with h | h <;> simp [startUndefined, h]

/-- `SET` of a bit field is its write of 1, then the advance; no write reaches `pc`, the sequencer's group or the run's
parameters. -/
theorem exec_set_of_bit {f : FieldId} {x : Field} (hf : Field.ofId f = some x) (hw : x.writable = true)
    (hwidth : x.width = 1) {s u : State} (hwrite : writeField x 1 s = u) :
    exec (.set f) s = .next (advance u) ∧ (advance u).pc = s.pc + 1 ∧ (advance u).sys = s.sys ∧
      RunKept s (advance u) := by
  subst hwrite
  refine ⟨?_, ?_, writeField_sys x 1 s, (writeField_runKept x 1 s).trans (advance_runKept _)⟩
  · rw [exec, execSet, writeBit_of_bit hf hw hwidth, advance_writeField]
  · rw [advance_pc, writeField_pc]

/-- U4 for the timer: the bit is stored, and the timer's state is drawn, with the edge that this may make. -/
theorem writeField_timen_of_unstable {s : State} (hoff : s.clk.timen = 0) (hunstable : clkStable s.clk = false) :
    writeField .clkTimen 1 s = countDraws anyTimDraws
      (putTim (anyTim s.draws) { s with clk := { s.clk with timen := 1 } }) := by
  have hundefined : gateUndefined 1 s.clk.timen s.clk = true := by
    rw [hoff]
    exact gateUndefined_of_unstable hunstable
  have hwrite : writeField .clkTimen 1 s = writeTimen 1 s := rfl
  rw [hwrite, writeTimen, if_pos hundefined]

/-- U4 for the converter: the bit is stored, and the converter's state is drawn. -/
theorem writeField_adcen_of_unstable {s : State} (hoff : s.clk.adcen = 0) (hunstable : clkStable s.clk = false) :
    writeField .clkAdcen 1 s = countDraws anyAdcDraws
      { s with clk := { s.clk with adcen := 1 }, adc := anyAdc s.draws } := by
  have hundefined : gateUndefined 1 s.clk.adcen s.clk = true := by
    rw [hoff]
    exact gateUndefined_of_unstable hunstable
  have hwrite : writeField .clkAdcen 1 s = writeAdcen 1 s := rfl
  rw [hwrite, writeAdcen, if_pos hundefined]

/-- U5: the update event happens with the active registers drawn. -/
theorem writeField_timUg_of_noPreload {s : State} (hclock : s.clk.timen = 1)
    (hnoPreload : s.tim.oc1pe = 0 ∨ s.tim.arpe = 0) :
    writeField .timUg 1 s = countDraws 3 (putTim { updateEvent s.tim with
      pscA := anyBits 16 s.draws, arrA := anyBits 16 (s.draws + 1), ccrA := anyBits 16 (s.draws + 2) } s) := by
  have hwrite : writeField .timUg 1 s = writeUg 1 s := writeField_timUg hclock 1
  rw [hwrite, writeUg, if_neg (by decide), if_pos ((updateUndefined_iff _).mpr hnoPreload)]

/-- U6: one of the source's two options is drawn. -/
theorem writeField_adcSwstart_of_not_ready {s : State} (hclock : s.clk.adcen = 1)
    (hnotReady : s.adc.adon = 0 ∨ s.adc.adons = 0) :
    writeField .adcSwstart 1 s = countDraws 3 { s with adc := anyStart s.draws s.adc } := by
  have hwrite : writeField .adcSwstart 1 s = writeSwstart 1 s := writeField_adcSwstart hclock 1
  rw [hwrite, writeSwstart, if_neg (by decide), if_pos (startUndefined_of_not_ready hnotReady)]

theorem anyStart_cases (k : Nat) (a : Adc) :
    anyStart k a = a ∨
    anyStart k a = { a with armed := 1, dr := anyData (k + 1), eoc := anyBits 1 (k + 2) } := by
  unfold anyStart
  split
  · exact .inl rfl
  · exact .inr rfl

/-- Settles O56: the order by `step_determined`, then each point as the write that the model makes of it. -/
theorem undefinedPointsStayLocal : Obligations.UndefinedPointsStayLocal := by
  unfold Obligations.UndefinedPointsStayLocal
  refine ⟨fun s t h horder => ?_, fun s hoff hunstable => ?_, fun s hoff hunstable => ?_,
    fun s hclock hnoPreload => ?_, fun s hclock hnotReady => ?_⟩
  · obtain ⟨hdraws, hcontext⟩ := step_determined h horder
    exact ⟨hdraws, hcontext⟩
  · obtain ⟨hexec, hpc, hsys, hkept⟩ :=
      exec_set_of_bit (f := 0x04) rfl rfl rfl (writeField_timen_of_unstable hoff hunstable)
    refine ⟨_, hexec, hpc, by simp, hsys, by simp, hkept, ?_⟩
    exact putTim_adc (anyTim s.draws) { s with clk := { s.clk with timen := 1 } }
  · obtain ⟨hexec, hpc, hsys, hkept⟩ :=
      exec_set_of_bit (f := 0x05) rfl rfl rfl (writeField_adcen_of_unstable hoff hunstable)
    exact ⟨_, hexec, hpc, rfl, hsys, rfl, rfl, hkept⟩
  · obtain ⟨hexec, hpc, hsys, hkept⟩ :=
      exec_set_of_bit (f := 0x0E) rfl rfl rfl (writeField_timUg_of_noPreload hclock hnoPreload)
    refine ⟨_, hexec, hpc, by simp, hsys, by simp, hkept, by simp [updateEvent], ?_⟩
    exact putTim_adc _ s
  · obtain ⟨hexec, hpc, hsys, hkept⟩ :=
      exec_set_of_bit (f := 0x21) rfl rfl rfl (writeField_adcSwstart_of_not_ready hclock hnotReady)
    refine ⟨_, hexec, hpc, rfl, hsys, rfl, rfl, hkept, ?_⟩
    rcases anyStart_cases s.draws s.adc with hnothing | harmed
    · exact .inl hnothing
    · refine .inr ⟨?_, ?_⟩
      · simp only [advance_adc, countDraws_adc, harmed]
        exact anyData_lt _
      · simp only [advance_adc, countDraws_adc, harmed]

end Sys2Proof.Machine
